-- ==== Sys2Proof/Word.lean ====
section
/-! DEFINITION. The widths of the machine's values (spec/00_scope.md R5, R8). -/

namespace Sys2Proof

/-- A memory cell, a general register, a timer, an immediate `nn`: 8 bits, unsigned (R5). -/
abbrev Byte := BitVec 8

/-- `pc`, `I`, a stack slot, an instruction word: 16 bits (R5). -/
abbrev Word := BitVec 16

/-- The address field `nnn` of an instruction word: 12 bits (R73). -/
abbrev Nnn := BitVec 12

/-- The number of a general register, 0 to 15 (R22). -/
abbrev Reg := Fin 16

/-- A logical key, 0x0 to 0xF (R32). -/
abbrev Key := Fin 16

/-- The height `n` of a sprite, 0 to 15 rows (R73). -/
abbrev Height := Fin 16

end Sys2Proof
end

