-- ==== Sys2Proof/Syntax.lean ====
section
/-! DEFINITION. The instructions: one constructor for each of the 34 rows of spec/opcode_table.json
(spec/30_encoding.md R78). The operands are the fields of R73; each type holds exactly the values its field can. -/

namespace Sys2Proof

inductive Instr where
  /-- `00E0` ClearScreen (R160). -/
  | cls
  /-- `00EE` ReturnFromSubroutine (R103). -/
  | ret
  /-- `1NNN` JumpToAddress (R100). -/
  | jp (nnn : Nnn)
  /-- `2NNN` CallSubroutine (R102). -/
  | call (nnn : Nnn)
  /-- `3XNN` ConditionalSkipRegisterValue, equal (R104). -/
  | seImm (x : Reg) (nn : Byte)
  /-- `4XNN` ConditionalSkipRegisterValue, not equal (R105). -/
  | sneImm (x : Reg) (nn : Byte)
  /-- `5XY0` ConditionalSkipRegisters, equal (R106). -/
  | seReg (x y : Reg)
  /-- `6XNN` SetValueToRegister (R120). -/
  | ldImm (x : Reg) (nn : Byte)
  /-- `7XNN` AddValueToRegister (R121). -/
  | addImm (x : Reg) (nn : Byte)
  /-- `8XY0` RegistersOperation setToSecond (R131). -/
  | ldReg (x y : Reg)
  /-- `8XY1` RegistersOperation bitwiseOr (R132). -/
  | orReg (x y : Reg)
  /-- `8XY2` RegistersOperation bitwiseAnd (R133). -/
  | andReg (x y : Reg)
  /-- `8XY3` RegistersOperation bitwiseXor (R134). -/
  | xorReg (x y : Reg)
  /-- `8XY4` RegistersOperation addition (R135). -/
  | addReg (x y : Reg)
  /-- `8XY5` RegistersOperation subtractSecondFromFirst (R136). -/
  | subReg (x y : Reg)
  /-- `8XY6` RegistersOperation shiftRight (R137). -/
  | shr (x y : Reg)
  /-- `8XY7` RegistersOperation subtractFirstFromSecond (R138). -/
  | subn (x y : Reg)
  /-- `8XYE` RegistersOperation shiftLeft (R139). -/
  | shl (x y : Reg)
  /-- `9XY0` ConditionalSkipRegisters, not equal (R107). -/
  | sneReg (x y : Reg)
  /-- `ANNN` SetValueToIndexRegister (R122). -/
  | ldI (nnn : Nnn)
  /-- `BNNN` JumpToAddressPlusV0 (R101). -/
  | jpV0 (nnn : Nnn)
  /-- `CXNN` SetValueToRegisterWithRandomness (R123). -/
  | rnd (x : Reg) (nn : Byte)
  /-- `DXYN` DrawSprite (R162). -/
  | drw (x y : Reg) (n : Height)
  /-- `EX9E` ConditionalSkipKeyDown, expect down (R110). -/
  | skp (x : Reg)
  /-- `EXA1` ConditionalSkipKeyDown, expect up (R111). -/
  | sknp (x : Reg)
  /-- `FX07` DelayTimerStore (R150). -/
  | ldVxDt (x : Reg)
  /-- `FX0A` ConditionalPauseUntilKeyTap (R112). -/
  | ldVxK (x : Reg)
  /-- `FX15` DelayTimerSet (R151). -/
  | ldDtVx (x : Reg)
  /-- `FX18` SoundTimerSet (R152). -/
  | ldStVx (x : Reg)
  /-- `FX1E` AddRegisterValueToIndexRegister (R124). -/
  | addI (x : Reg)
  /-- `FX29` SetFontCharacterAddressToIndexRegister (R125). -/
  | ldF (x : Reg)
  /-- `FX33` RegisterStoreDecimalDigits (R143). -/
  | ldB (x : Reg)
  /-- `FX55` RegistersStorage, storing (R141). -/
  | storeRegs (x : Reg)
  /-- `FX65` RegistersStorage, restoring (R142). -/
  | loadRegs (x : Reg)
  deriving DecidableEq, Repr

end Sys2Proof
end

