-- ==== Sys2Proof/Decode.lean ====
section
/-! DEFINITION. The decoder (spec/30_encoding.md R73 to R77), the encoder, and the opcode table of R78. -/

namespace Sys2Proof

/-! ### Fields (R73) -/

/-- `w[15:12]`, the high nibble. -/
def opNibble (w : Word) : BitVec 4 := w.extractLsb' 12 4

/-- `x = w[11:8]`. -/
def fieldX (w : Word) : Reg := (w.extractLsb' 8 4).toFin

/-- `y = w[7:4]`. -/
def fieldY (w : Word) : Reg := (w.extractLsb' 4 4).toFin

/-- `n = w[3:0]`. -/
def fieldN (w : Word) : Height := (w.extractLsb' 0 4).toFin

/-- `nn = w[7:0]`. -/
def fieldNn (w : Word) : Byte := w.extractLsb' 0 8

/-- `nnn = w[11:0]`. -/
def fieldNnn (w : Word) : Nnn := w.extractLsb' 0 12

/-! ### The decoder -/

/-- What a word decodes to (R74): an instruction of the table, or `Unknown(w)`. The second case is the decoder's
rejection by name; decoding itself never fails. -/
inductive Operation where
  | known (i : Instr)
  | unknown (w : Word)
  deriving DecidableEq, Repr

/-- The nine sub-operations of `8XYn` (R79). -/
def decodeAlu (w : Word) : Operation :=
  match (fieldN w).val with
  | 0x0 => .known (.ldReg (fieldX w) (fieldY w))
  | 0x1 => .known (.orReg (fieldX w) (fieldY w))
  | 0x2 => .known (.andReg (fieldX w) (fieldY w))
  | 0x3 => .known (.xorReg (fieldX w) (fieldY w))
  | 0x4 => .known (.addReg (fieldX w) (fieldY w))
  | 0x5 => .known (.subReg (fieldX w) (fieldY w))
  | 0x6 => .known (.shr (fieldX w) (fieldY w))
  | 0x7 => .known (.subn (fieldX w) (fieldY w))
  | 0xE => .known (.shl (fieldX w) (fieldY w))
  | _ => .unknown w

/-- `EXnn` (R76). -/
def decodeKeySkip (w : Word) : Operation :=
  match (fieldNn w).toNat with
  | 0x9E => .known (.skp (fieldX w))
  | 0xA1 => .known (.sknp (fieldX w))
  | _ => .unknown w

/-- `FXnn` (R76). -/
def decodeMisc (w : Word) : Operation :=
  match (fieldNn w).toNat with
  | 0x07 => .known (.ldVxDt (fieldX w))
  | 0x0A => .known (.ldVxK (fieldX w))
  | 0x15 => .known (.ldDtVx (fieldX w))
  | 0x18 => .known (.ldStVx (fieldX w))
  | 0x1E => .known (.addI (fieldX w))
  | 0x29 => .known (.ldF (fieldX w))
  | 0x33 => .known (.ldB (fieldX w))
  | 0x55 => .known (.storeRegs (fieldX w))
  | 0x65 => .known (.loadRegs (fieldX w))
  | _ => .unknown w

/-- The families selected by the high nibble (R76). -/
def decodeFamily (w : Word) : Operation :=
  match (opNibble w).toNat with
  | 0x0 => .unknown w
  | 0x1 => .known (.jp (fieldNnn w))
  | 0x2 => .known (.call (fieldNnn w))
  | 0x3 => .known (.seImm (fieldX w) (fieldNn w))
  | 0x4 => .known (.sneImm (fieldX w) (fieldNn w))
  | 0x5 => if (fieldN w).val = 0 then .known (.seReg (fieldX w) (fieldY w)) else .unknown w
  | 0x6 => .known (.ldImm (fieldX w) (fieldNn w))
  | 0x7 => .known (.addImm (fieldX w) (fieldNn w))
  | 0x8 => decodeAlu w
  | 0x9 => if (fieldN w).val = 0 then .known (.sneReg (fieldX w) (fieldY w)) else .unknown w
  | 0xA => .known (.ldI (fieldNnn w))
  | 0xB => .known (.jpV0 (fieldNnn w))
  | 0xC => .known (.rnd (fieldX w) (fieldNn w))
  | 0xD => .known (.drw (fieldX w) (fieldY w) (fieldN w))
  | 0xE => decodeKeySkip w
  | _ => decodeMisc w

/-- The decoder of R76: the two zero-operand opcodes by full equality first (R75), then the families. -/
def decode (w : Word) : Operation :=
  if w = 0x00E0#16 then .known .cls
  else if w = 0x00EE#16 then .known .ret
  else decodeFamily w

/-! ### Bytes in memory (R51, R71) -/

/-- The word of two consecutive bytes, the byte at the lower address first: big endian (R51). -/
def wordOfBytes (hi lo : Byte) : Word := BitVec.ofNat 16 (hi.toNat * 256 + lo.toNat)

/-- The byte of a word that lies at the lower address (R51). -/
def highByte (w : Word) : Byte := w.extractLsb' 8 8

/-- The byte of a word that lies at the higher address (R51). -/
def lowByte (w : Word) : Byte := w.extractLsb' 0 8

/-- The decoder over a byte sequence: the operation and the bytes after it; none if fewer than two bytes are left. -/
def decodeBytes : List Byte → Option (Operation × List Byte)
  | hi :: lo :: rest => some (decode (wordOfBytes hi lo), rest)
  | _ => none

/-- The word an opcode-table row's bits stand for: the `nbits` given bits, every higher bit 0. -/
def tableWord (nbits w : Nat) : Word := BitVec.ofNat 16 (w % 2 ^ nbits)

/-- The instruction the decoder reads from the word, laid out in memory order. -/
def decodeTableWord (nbits w : Nat) : Option Instr :=
  match decodeBytes [highByte (tableWord nbits w), lowByte (tableWord nbits w)] with
  | some (.known i, _) => some i
  | _ => none

/-! ### The encoder, by the formats of R72 -/

/-- A word of four nibbles, the highest first. -/
def nibbles (a b c d : Nat) : Word := BitVec.ofNat 16 (a * 4096 + b * 256 + c * 16 + d)

/-- Format `A`: opcode, `nnn`. -/
def formatA (op : Nat) (nnn : Nnn) : Word := BitVec.ofNat 16 (op * 4096 + nnn.toNat)

/-- Format `XI`: opcode, `x`, `nn`. -/
def formatXI (op : Nat) (x : Reg) (nn : Byte) : Word := BitVec.ofNat 16 (op * 4096 + x.val * 256 + nn.toNat)

/-- Format `XY`, and `XYN` with `n` in the place of the sub-opcode. -/
def formatXY (op : Nat) (x y : Reg) (sub : Nat) : Word := nibbles op x.val y.val sub

/-- Format `XF`: opcode, `x`, a fixed low byte. -/
def formatXF (op : Nat) (x : Reg) (low : Nat) : Word := BitVec.ofNat 16 (op * 4096 + x.val * 256 + low)

/-- The word of an instruction (R78, columns "Pattern" and "Format"). -/
def encode : Instr → Word
  | .cls => nibbles 0x0 0x0 0xE 0x0
  | .ret => nibbles 0x0 0x0 0xE 0xE
  | .jp nnn => formatA 0x1 nnn
  | .call nnn => formatA 0x2 nnn
  | .seImm x nn => formatXI 0x3 x nn
  | .sneImm x nn => formatXI 0x4 x nn
  | .seReg x y => formatXY 0x5 x y 0x0
  | .ldImm x nn => formatXI 0x6 x nn
  | .addImm x nn => formatXI 0x7 x nn
  | .ldReg x y => formatXY 0x8 x y 0x0
  | .orReg x y => formatXY 0x8 x y 0x1
  | .andReg x y => formatXY 0x8 x y 0x2
  | .xorReg x y => formatXY 0x8 x y 0x3
  | .addReg x y => formatXY 0x8 x y 0x4
  | .subReg x y => formatXY 0x8 x y 0x5
  | .shr x y => formatXY 0x8 x y 0x6
  | .subn x y => formatXY 0x8 x y 0x7
  | .shl x y => formatXY 0x8 x y 0xE
  | .sneReg x y => formatXY 0x9 x y 0x0
  | .ldI nnn => formatA 0xA nnn
  | .jpV0 nnn => formatA 0xB nnn
  | .rnd x nn => formatXI 0xC x nn
  | .drw x y n => formatXY 0xD x y n.val
  | .skp x => formatXF 0xE x 0x9E
  | .sknp x => formatXF 0xE x 0xA1
  | .ldVxDt x => formatXF 0xF x 0x07
  | .ldVxK x => formatXF 0xF x 0x0A
  | .ldDtVx x => formatXF 0xF x 0x15
  | .ldStVx x => formatXF 0xF x 0x18
  | .addI x => formatXF 0xF x 0x1E
  | .ldF x => formatXF 0xF x 0x29
  | .ldB x => formatXF 0xF x 0x33
  | .storeRegs x => formatXF 0xF x 0x55
  | .loadRegs x => formatXF 0xF x 0x65

/-- An instruction as it lies in memory: high byte, low byte (R71). -/
def encodeBytes (i : Instr) : List Byte := [highByte (encode i), lowByte (encode i)]

/-! ### The opcode table (R78), kept apart from the decoder so that each can be held against the other -/

/-- One row of R78. -/
structure OpcodeRow where
  mnemonic : String
  mask : Word
  pattern : Word
  deriving DecidableEq, Repr

/-- A word selects the row for which `w & mask == match` (R78). -/
def OpcodeRow.selects (r : OpcodeRow) (w : Word) : Bool := decide (w &&& r.mask = r.pattern)

/-- Rows `0NNN` to `7XNN` of R78. -/
def opcodeRowsLow : List OpcodeRow :=
  [⟨"CLS", 0xFFFF, 0x00E0⟩, ⟨"RET", 0xFFFF, 0x00EE⟩, ⟨"JP_nnn", 0xF000, 0x1000⟩, ⟨"CALL_nnn", 0xF000, 0x2000⟩,
   ⟨"SE_Vx__nn", 0xF000, 0x3000⟩, ⟨"SNE_Vx__nn", 0xF000, 0x4000⟩, ⟨"SE_Vx__Vy", 0xF00F, 0x5000⟩,
   ⟨"LD_Vx__nn", 0xF000, 0x6000⟩, ⟨"ADD_Vx__nn", 0xF000, 0x7000⟩]

/-- Rows `8XY0` to `8XYE` of R78. -/
def opcodeRowsAlu : List OpcodeRow :=
  [⟨"LD_Vx__Vy", 0xF00F, 0x8000⟩, ⟨"OR_Vx__Vy", 0xF00F, 0x8001⟩, ⟨"AND_Vx__Vy", 0xF00F, 0x8002⟩,
   ⟨"XOR_Vx__Vy", 0xF00F, 0x8003⟩, ⟨"ADD_Vx__Vy", 0xF00F, 0x8004⟩, ⟨"SUB_Vx__Vy", 0xF00F, 0x8005⟩,
   ⟨"SHR_Vx", 0xF00F, 0x8006⟩, ⟨"SUBN_Vx__Vy", 0xF00F, 0x8007⟩, ⟨"SHL_Vx", 0xF00F, 0x800E⟩]

/-- Rows `9XY0` to `EXA1` of R78. -/
def opcodeRowsMid : List OpcodeRow :=
  [⟨"SNE_Vx__Vy", 0xF00F, 0x9000⟩, ⟨"LD_I__nnn", 0xF000, 0xA000⟩, ⟨"JP_V0__nnn", 0xF000, 0xB000⟩,
   ⟨"RND_Vx__nn", 0xF000, 0xC000⟩, ⟨"DRW_Vx__Vy__n", 0xF000, 0xD000⟩, ⟨"SKP_Vx", 0xF0FF, 0xE09E⟩,
   ⟨"SKNP_Vx", 0xF0FF, 0xE0A1⟩]

/-- Rows `FX07` to `FX65` of R78. -/
def opcodeRowsMisc : List OpcodeRow :=
  [⟨"LD_Vx__DT", 0xF0FF, 0xF007⟩, ⟨"LD_Vx__K", 0xF0FF, 0xF00A⟩, ⟨"LD_DT__Vx", 0xF0FF, 0xF015⟩,
   ⟨"LD_ST__Vx", 0xF0FF, 0xF018⟩, ⟨"ADD_I__Vx", 0xF0FF, 0xF01E⟩, ⟨"LD_F__Vx", 0xF0FF, 0xF029⟩,
   ⟨"LD_B__Vx", 0xF0FF, 0xF033⟩, ⟨"LD__I___Vx", 0xF0FF, 0xF055⟩, ⟨"LD_Vx___I", 0xF0FF, 0xF065⟩]

/-- The 34 rows of R78. -/
def opcodeTable : List OpcodeRow := opcodeRowsLow ++ opcodeRowsAlu ++ opcodeRowsMid ++ opcodeRowsMisc

/-- The mnemonic of an instruction's row, as spec/opcode_table.json spells it. -/
def Instr.mnemonic : Instr → String
  | .cls => "CLS"
  | .ret => "RET"
  | .jp _ => "JP_nnn"
  | .call _ => "CALL_nnn"
  | .seImm _ _ => "SE_Vx__nn"
  | .sneImm _ _ => "SNE_Vx__nn"
  | .seReg _ _ => "SE_Vx__Vy"
  | .ldImm _ _ => "LD_Vx__nn"
  | .addImm _ _ => "ADD_Vx__nn"
  | .ldReg _ _ => "LD_Vx__Vy"
  | .orReg _ _ => "OR_Vx__Vy"
  | .andReg _ _ => "AND_Vx__Vy"
  | .xorReg _ _ => "XOR_Vx__Vy"
  | .addReg _ _ => "ADD_Vx__Vy"
  | .subReg _ _ => "SUB_Vx__Vy"
  | .shr _ _ => "SHR_Vx"
  | .subn _ _ => "SUBN_Vx__Vy"
  | .shl _ _ => "SHL_Vx"
  | .sneReg _ _ => "SNE_Vx__Vy"
  | .ldI _ => "LD_I__nnn"
  | .jpV0 _ => "JP_V0__nnn"
  | .rnd _ _ => "RND_Vx__nn"
  | .drw _ _ _ => "DRW_Vx__Vy__n"
  | .skp _ => "SKP_Vx"
  | .sknp _ => "SKNP_Vx"
  | .ldVxDt _ => "LD_Vx__DT"
  | .ldVxK _ => "LD_Vx__K"
  | .ldDtVx _ => "LD_DT__Vx"
  | .ldStVx _ => "LD_ST__Vx"
  | .addI _ => "ADD_I__Vx"
  | .ldF _ => "LD_F__Vx"
  | .ldB _ => "LD_B__Vx"
  | .storeRegs _ => "LD__I___Vx"
  | .loadRegs _ => "LD_Vx___I"

end Sys2Proof
end

