-- ==== Sys2Proof/Config.lean ====
section
/-! DEFINITION. What an implementation fixes (spec/00_scope.md R6) and the model's one free value, the random byte. -/

namespace Sys2Proof

/-- The configurable parameters of R6. Their defaults stand in Machine/Defaults.lean, their legal ranges in
WellFormed.lean. No instruction changes them (R265), nor does a program load (log entry 1). -/
structure Config where
  /-- First address of the font region. -/
  fontBase : Nat
  /-- The 80 bytes of the 16 glyphs (R30). -/
  fontData : Vector Byte 80
  /-- Instructions per second; enters only through `ipf`. -/
  clockRate : Nat
  /-- Frames per second; enters only through `ipf`. -/
  frameRate : Nat
  /-- Whether `8XY6` and `8XYE` shift `V[y]` instead of `V[x]` (R137). -/
  shiftUsesVy : Bool
  deriving DecidableEq, Repr

/-- `IPF`, instructions per frame: the floor of `clock_rate / frame_rate` (R6). -/
def Config.ipf (c : Config) : Nat :=
  c.clockRate / c.frameRate

/-- The free value `rnd` (R227): the byte the environment supplies to the `k`-th execution of `CXNN`.
It has no body, so nothing can be proved of it beyond its being a byte. DESIGN CHOICE (log entry 2), safe. -/
opaque Config.randomByte : Nat → Byte

end Sys2Proof
end

