-- ==== Sys2Proof/Machine/Defaults.lean ====
section
/-! DEFINITION. The default configuration (spec/00_scope.md R6) and the default glyphs (spec/10_state.md R30). -/

namespace Sys2Proof

/-- The 80 bytes of R30's table, glyph 0 to glyph F, row 0 to row 4 of each.
UNVERIFIED: the spec takes them from general knowledge (93 G3, log entry 12). -/
def Config.defaultFontData : Vector Byte 80 :=
  ⟨#[0xF0, 0x90, 0x90, 0x90, 0xF0,   0x20, 0x60, 0x20, 0x20, 0x70,   0xF0, 0x10, 0xF0, 0x80, 0xF0,
     0xF0, 0x10, 0xF0, 0x10, 0xF0,   0x90, 0x90, 0xF0, 0x10, 0x10,   0xF0, 0x80, 0xF0, 0x10, 0xF0,
     0xF0, 0x80, 0xF0, 0x90, 0xF0,   0xF0, 0x10, 0x20, 0x40, 0x40,   0xF0, 0x90, 0xF0, 0x90, 0xF0,
     0xF0, 0x90, 0xF0, 0x10, 0xF0,   0xF0, 0x90, 0xF0, 0x90, 0x90,   0xE0, 0x90, 0xE0, 0x90, 0xE0,
     0xF0, 0x80, 0x80, 0x80, 0xF0,   0xE0, 0x90, 0x90, 0x90, 0xE0,   0xF0, 0x80, 0xF0, 0x80, 0xF0,
     0xF0, 0x80, 0xF0, 0x80, 0x80], rfl⟩

/-- The defaults of R6: `font_base` 0x050, 600 instructions and 60 frames per second (so `IPF` is 10), and shifts that
read `V[x]`. -/
def Config.default : Config where
  fontBase := 0x050
  fontData := Config.defaultFontData
  clockRate := 600
  frameRate := 60
  shiftUsesVy := false

end Sys2Proof
end

