-- ==== Sys2Proof/Machine/State.lean ====
section
/-! DEFINITION. The machine's state (spec/10_state.md), the host's events (spec/60_exceptions.md section 6), the
outcomes' reasons, and the state after reset (R39, R250). -/

namespace Sys2Proof.Machine

/-! ### MachineState: what a snapshot holds (R20 (a), R41) -/

/-- `memory` (R21): cells in strictly rising address order, none equal to what its address holds at reset, which is
what an address without a cell reads as (log entry 7). Read and written through `Memory.read` and `Memory.write`. -/
abbrev Memory := List Host.Cell

/-- `screen` (R31): 32 rows of 64 one-bit pixels; pixel `x + y*64` is bit `x` of row `y` (log entry 11). A draw XORs
a row. -/
abbrev Screen := Vector (BitVec 64) 32

/-- The eleven fields of a snapshot, in R41's order. -/
structure MachineState where
  /-- 4096 bytes, code and data (R21). -/
  memory : Memory
  /-- `V[0]` to `V[15]` (R22); `V[15]` is the flag `VF` (R23). -/
  v : Vector Byte 16
  /-- The index register `I`, 16 bits (R24). -/
  i : Word
  /-- The program counter, 16 bits, any value (R25, R26). -/
  pc : Word
  /-- The call stack's 16 slots (R27). -/
  stack : Vector Word 16
  /-- The next free slot, 0 to 16 (R28). -/
  sp : Fin 17
  /-- The delay timer (R29). -/
  dt : Byte
  /-- The sound timer (R29). -/
  st : Byte
  /-- The live framebuffer (R31). -/
  screen : Screen
  /-- `true` is down (R32). -/
  keys : Vector Bool 16
  /-- The key whose release `FX0A` awaits (R33). -/
  pending : Option Key
  deriving DecidableEq, Repr

/-- A blank screen: every pixel off. -/
def Screen.blank : Screen := Vector.replicate 32 0

/-- R39's reset values over a memory's contents. -/
def MachineState.fresh (memory : Memory) : MachineState where
  memory := memory
  v := Vector.replicate 16 0
  i := 0
  pc := 0x200
  stack := Vector.replicate 16 0
  sp := 0
  dt := 0
  st := 0
  screen := Screen.blank
  keys := Vector.replicate 16 false
  pending := none

/-! ### Faults, identity, snapshots, host events -/

/-- The six fatal conditions of R200. -/
inductive FaultCause where
  /-- Executing `Unknown(w)`; `info` is `w`. -/
  | unknownOpcode
  /-- The fetch of a cycle with `pc + 1 > 4095`; `info` is `pc`. -/
  | fetchOutOfBounds
  /-- `2NNN` with `sp = 16`; `info` is `pc`. -/
  | stackOverflow
  /-- `00EE` with `sp = 0`; `info` is `pc`. -/
  | stackUnderflow
  /-- `EX9E` or `EXA1` with `V[x] > 15`; `info` is `V[x]`. -/
  | keyIndexOutOfRange
  /-- `FX33`, `FX55`, `FX65` or `DXYN` with its last data address above 4095; `info` is `I`. -/
  | memoryOutOfBounds
  deriving DecidableEq, Repr

/-- What the fault latch holds (R34). -/
structure FaultRecord where
  cause : FaultCause
  info : Word
  deriving DecidableEq, Repr

/-- The identity of a program (R36): opaque, compared only for equality. The number is its representation here and
nothing computes with it (log entry 6). -/
structure ProgramId where
  value : Nat
  deriving DecidableEq, Repr

/-- A snapshot (R41): a copy of `MachineState` and the identity of the program it belongs to. -/
structure Snapshot where
  machine : MachineState
  progId : ProgramId
  deriving DecidableEq, Repr

/-- What the host can do to the core (R7), each between two steps of the core (R221). -/
inductive HostEvent where
  /-- R226; the code is 4 bits, so a code above 15 cannot be expressed (93 U6). -/
  | keyDown (code : Key)
  /-- R226. -/
  | keyUp (code : Key)
  /-- R228. -/
  | setPause (b : Bool)
  /-- R229. -/
  | cancel
  /-- R230. -/
  | snapshotExport
  /-- R231. -/
  | snapshotLoad (snap : Snapshot)
  /-- R250. -/
  | programLoad (bytes : List Byte) (id : ProgramId)
  deriving DecidableEq, Repr

/-- Who moves next: the core, or the host with one event. -/
inductive Turn where
  | core
  | host (e : HostEvent)
  deriving DecidableEq, Repr


/-- The whole state: R20's three groups, then the inputs of R42 that the model carries as data because `step` has no
other argument. -/
structure State where
  /-- Group (a). -/
  machine : MachineState
  /-- The fault latch (R34). -/
  fault : Option FaultRecord
  /-- R35. -/
  paused : Bool
  /-- R35. -/
  cancelled : Bool
  /-- The cycles run in the current frame, 0 to `IPF` (R35). -/
  cycleInFrame : Nat
  /-- The identity of the loaded program (R36). -/
  progId : ProgramId
  /-- The published framebuffer (R37). -/
  screenOut : Screen
  /-- The published sound timer (R37). -/
  soundOut : Byte
  /-- The published `MachineState` (R37). -/
  stateOut : MachineState
  /-- The configuration of R6, constant (R265, log entry 1). -/
  config : Config
  /-- The MODEL's own field: the host's plan, the next turns in order; once it is used up every turn is the core's
  (log entry 3). -/
  turns : List Turn
  /-- The MODEL's own field: how many random bytes `CXNN` has drawn (log entry 2). -/
  draws : Nat
  deriving DecidableEq, Repr

/-- Why the core stops. -/
inductive Fault where
  /-- Raised by the step when it is the core's turn and the fault latch is set: "no further cycles run" (R211). The
  fatal condition itself was a next state, which set the latch (R210). Safe: the core stops where the spec stops it
  (log entry 4). -/
  | halted (record : FaultRecord)
  deriving DecidableEq, Repr

/-- What the model gives no meaning. -/
inductive Refusal where
  /-- Raised by `exec` for an instruction without a meaning; no arm does so now. Safe. -/
  | notModelled (mnemonic : String)
  /-- Raised by a ProgramLoad that fails R251's conditions: "a load that fails them is refused: no state is defined".
  Safe (log entry 9). -/
  | programLoadRefused
  /-- Raised by a SnapshotLoad whose memory is not in the model's form for 4096 bytes: "must meet the same shape or it
  is not a snapshot" (R38). Safe (log entry 10). -/
  | notASnapshot
  deriving DecidableEq, Repr

/-- The state R250 leaves: everything of R39 over the memory contents, with the inputs carried along. -/
def State.fresh (config : Config) (memory : Memory) (id : ProgramId) (turns : List Turn) (draws : Nat) : State where
  machine := MachineState.fresh memory
  fault := none
  paused := false
  cancelled := false
  cycleInFrame := 0
  progId := id
  screenOut := Screen.blank
  soundOut := 0
  stateOut := MachineState.fresh memory
  config := config
  turns := turns
  draws := draws

/-- The machine right after reset: a ProgramLoad of the empty program (R250, R251: `L = 0` is allowed) under the
default configuration (log entries 1, 2, 3, 6, 8). Memory lists nothing: it holds the font and zeros. -/
def State.reset : State := State.fresh Config.default [] ⟨0⟩ [] 0

end Sys2Proof.Machine
end

