-- ==== Sys2Proof/Machine/Ops.lean ====
section
/-! DEFINITION. The named operations over memory, registers and run control, and taking a fault. -/

namespace Sys2Proof.Machine

/-! ### Memory (spec/20_memory.md) -/

/-- The number of memory addresses, 0 to 4095 (R5). -/
def memorySize : Nat := 4096

/-- What address `a` holds at reset, and so what an address without a cell reads as: the font byte in the font
region, else 0 (R39, R57). -/
def resetByte (c : Config) (a : Nat) : Byte :=
  if c.fontBase ≤ a then c.fontData[a - c.fontBase]?.getD 0 else 0

/-- `MemRead(a, 1)` (R9). Callers have checked `a ≤ 4095` (R55). -/
def Memory.read (c : Config) : Memory → Nat → Byte
  | [], a => resetByte c a
  | (k, v) :: rest, a => if k = a then v else Memory.read c rest a

/-- The cells with address `a` holding `v`, in address order. -/
def Memory.put : Memory → Nat → Byte → Memory
  | [], a, v => [(a, v)]
  | (k, w) :: rest, a, v =>
    if a < k then (a, v) :: (k, w) :: rest else if a = k then (a, v) :: rest else (k, w) :: Memory.put rest a v

/-- The cells without address `a`. -/
def Memory.drop (m : Memory) (a : Nat) : Memory := m.filter fun cell => decide (cell.1 ≠ a)

/-- `MemWrite(a, 1, v)` (R9). Writing what the address held at reset removes its cell, so that equal memories are
equal lists. There is no cell at 4096 or above; callers have checked the address (R55). -/
def Memory.write (c : Config) (m : Memory) (a : Nat) (v : Byte) : Memory :=
  if a < memorySize then (if v = resetByte c a then Memory.drop m a else Memory.put m a v) else m

/-- Single-byte writes at ascending addresses from `a` (R54). -/
def Memory.writeList (c : Config) : Memory → Nat → List Byte → Memory
  | m, _, [] => m
  | m, a, b :: rest => Memory.writeList c (Memory.write c m a b) (a + 1) rest

/-- `n` single-byte reads at ascending addresses from `a` (R54). -/
def Memory.readList (c : Config) (m : Memory) : Nat → Nat → List Byte
  | _, 0 => []
  | a, n + 1 => Memory.read c m a :: Memory.readList c m (a + 1) n

/-- The canonical form from address `lo` on: strictly rising addresses within memory, no cell equal to the reset byte. -/
def Memory.wfFrom (c : Config) (lo : Nat) : Memory → Bool
  | [] => true
  | (k, v) :: rest =>
    decide (lo ≤ k) && decide (k < memorySize) && decide (v ≠ resetByte c k) && Memory.wfFrom c (k + 1) rest

/-- The canonical form of a memory. -/
def Memory.wf (c : Config) (m : Memory) : Bool := Memory.wfFrom c 0 m

/-- The byte at address `a` of the live memory. -/
def State.readByte (s : State) (a : Nat) : Byte := Memory.read s.config s.machine.memory a

/-! ### Registers (spec/10_state.md) -/

/-- The flag register `VF` is `V[15]` (R23). -/
def flagReg : Reg := 15

/-- `V[x]`. -/
def MachineState.reg (m : MachineState) (x : Reg) : Byte := m.v[x]

/-- `V[x] <- b`. -/
def MachineState.setReg (m : MachineState) (x : Reg) (b : Byte) : MachineState := { m with v := m.v.set x b }

/-- A flag is written as the 8-bit value 0 or 1 (R23). -/
def flagByte (f : Bool) : Byte := if f then 1 else 0

/-- `V[15] <- f`. -/
def MachineState.setFlag (m : MachineState) (f : Bool) : MachineState := m.setReg flagReg (flagByte f)

/-- `V[i] <- bytes` for the registers below the list's length, the others kept. -/
def MachineState.setRegs (m : MachineState) (bytes : List Byte) : MachineState :=
  { m with v := Vector.ofFn fun r => bytes[r.val]?.getD m.v[r] }

/-- `I <- w`. -/
def MachineState.setI (m : MachineState) (w : Word) : MachineState := { m with i := w }

/-- `pc <- w`. -/
def MachineState.setPc (m : MachineState) (w : Word) : MachineState := { m with pc := w }

/-- `pc <- pc +_16 2`, the width of an instruction (R10, R71). -/
def MachineState.advance (m : MachineState) : MachineState := m.setPc (m.pc + 2)

/-- A skip: `pc` advances by 4 if the condition holds, else by 2 (R108). -/
def MachineState.skipIf (m : MachineState) (cond : Bool) : MachineState :=
  m.setPc (m.pc + (if cond then 4 else 2))

/-- `DT <- b`. -/
def MachineState.setDt (m : MachineState) (b : Byte) : MachineState := { m with dt := b }

/-- `ST <- b`. -/
def MachineState.setSt (m : MachineState) (b : Byte) : MachineState := { m with st := b }

/-- `pending <- k`. -/
def MachineState.setPending (m : MachineState) (k : Option Key) : MachineState := { m with pending := k }

/-- `keys[k] == 1`. -/
def MachineState.keyDown (m : MachineState) (k : Key) : Bool := m.keys[k]

/-- `keys[k] <- b`. -/
def MachineState.setKey (m : MachineState) (k : Key) (b : Bool) : MachineState := { m with keys := m.keys.set k b }

/-- `screen <- scr`. -/
def MachineState.setScreen (m : MachineState) (scr : Screen) : MachineState := { m with screen := scr }

/-- The memory's contents replaced. -/
def MachineState.setMemory (m : MachineState) (mem : Memory) : MachineState := { m with memory := mem }

/-! ### The call stack (R27, R28) -/

/-- Push a word: `stack[sp] <- w; sp <- sp + 1`. None if `sp = 16`. -/
def MachineState.push (m : MachineState) (w : Word) : Option MachineState :=
  if h : m.sp.val < 16 then some { m with stack := m.stack.set m.sp.val w, sp := ⟨m.sp.val + 1, by omega⟩ } else none

/-- Pop a word: `sp <- sp - 1`, the word `stack[sp]`, which keeps its slot (R27). None if `sp = 0`. -/
def MachineState.pop (m : MachineState) : Option (Word × MachineState) :=
  if h : 0 < m.sp.val then
    some (m.stack[m.sp.val - 1]'(by omega), { m with sp := ⟨m.sp.val - 1, by omega⟩ })
  else none

/-! ### Pixels (R31) -/

/-- `screen[x + y*64]`; off the screen there is no pixel and the answer is `false`. -/
def Screen.pixel (scr : Screen) (x y : Nat) : Bool :=
  if h : y < 32 then (scr[y]).getLsbD x else false

/-- `screen[x + y*64] <- screen[x + y*64] ^ 1`; off the screen nothing changes. -/
def Screen.toggle (scr : Screen) (x y : Nat) : Screen :=
  if h : y < 32 then scr.set y (scr[y] ^^^ BitVec.twoPow 64 x) else scr

/-! ### Outcomes -/

/-- The type of every meaning's answer. -/
abbrev Result := Host.Outcome State Fault Refusal

/-- The instruction completes: `MachineState` becomes `m`, nothing else changes. -/
def State.complete (s : State) (m : MachineState) : Result := .next { s with machine := m }

/-- One random byte is drawn (R227): the next draw is another free value. -/
def State.countDraw (s : State) : State := { s with draws := s.draws + 1 }

/-- `raise cause(info)` (R210): the fault latch is set and nothing else changes, so the fault is precise. It is the
machine's one way to take an exception; there is no vector, no saved register and no mode (R212). -/
def State.raise (s : State) (cause : FaultCause) (info : Word) : State := { s with fault := some ⟨cause, info⟩ }

/-- The latch cleared. No instruction returns from a fault (R213); only the host clears it (R214). -/
def State.clearFault (s : State) : State := { s with fault := none }

/-! ### Instruction fetch (R52) -/

/-- The word at `pc`, big endian; none if `pc + 1 > 4095`, compared without wrap. -/
def State.fetch (s : State) : Option Word :=
  if s.machine.pc.toNat + 1 > 4095 then none
  else some (wordOfBytes (s.readByte s.machine.pc.toNat) (s.readByte (s.machine.pc.toNat + 1)))

end Sys2Proof.Machine
end

