-- ==== Sys2Proof/Machine/Flags.lean ====
section
/-! DEFINITION. The flag computations: what `VF` becomes (spec/10_state.md R23, spec/43_alu_register.md R140). -/

namespace Sys2Proof.Machine

/-- Carry out of `a + b`: 1 iff the exact sum exceeds 255 (R135). -/
def carryFlag (a b : Byte) : Bool := decide (a.toNat + b.toNat > 255)

/-- No borrow in `a - b`: 1 iff `a >= b` (R136, R138). -/
def noBorrowFlag (a b : Byte) : Bool := decide (a.toNat ≥ b.toNat)

/-- Bit 0, shifted out by a right shift (R137). -/
def shiftOutRight (a : Byte) : Bool := a.getLsbD 0

/-- Bit 7, shifted out by a left shift (R139). -/
def shiftOutLeft (a : Byte) : Bool := a.getLsbD 7

end Sys2Proof.Machine
end

