-- ==== Sys2Proof/Machine/Operands.lean ====
section
/-! DEFINITION. The operand forms: immediates, the shifted register, key indices, memory ranges through `I`. -/

namespace Sys2Proof.Machine

/-- `zext_16(nnn)`: an address field as written to `pc` or `I` (R73). -/
def zextNnn (nnn : Nnn) : Word := nnn.setWidth 16

/-- `zext_16(b)`: a byte as a 16-bit value (R9). -/
def zextByte (b : Byte) : Word := b.setWidth 16

/-- The value `8XY6` and `8XYE` shift: `V[y]` if `SHIFT_USES_VY`, else `V[x]` (R137, R139). -/
def State.shiftOperand (s : State) (x y : Reg) : Byte :=
  if s.config.shiftUsesVy then s.machine.reg y else s.machine.reg x

/-- A register's value as a key index: legal from 0 to 15, neither masked nor clamped (R113). -/
def keyIndex (b : Byte) : Option Key :=
  if h : b.toNat < 16 then some ⟨b.toNat, h⟩ else none

/-- `zext_8(k)`: a key index as a byte (R112). -/
def keyByte (k : Key) : Byte := BitVec.ofNat 8 k.val

/-- The least key that is down, "the first true" (R112). -/
def MachineState.firstKeyDown (m : MachineState) : Option Key :=
  (List.finRange 16).find? fun k => m.keyDown k

/-- The effective address `I + k`, exact (R144). -/
def MachineState.dataAddress (m : MachineState) (k : Nat) : Nat := m.i.toNat + k

/-- Whether `k` bytes at `I` lie within memory (R55); with `k = 0` there is no access and no check. -/
def MachineState.dataInRange (m : MachineState) (k : Nat) : Bool :=
  decide (k = 0) || decide (m.i.toNat + k - 1 ≤ 4095)

/-- The data address check of R55 before an access to `k` bytes at `I`: it raises before anything is read or written. -/
def State.checkedAccess (s : State) (k : Nat) (access : Result) : Result :=
  if s.machine.dataInRange k then access else .next (s.raise .memoryOutOfBounds s.machine.i)

/-- The `k` bytes at `I`. -/
def State.dataBytes (s : State) (k : Nat) : List Byte :=
  Memory.readList s.config s.machine.memory (s.machine.dataAddress 0) k

/-- Memory with the bytes stored from `I` on. -/
def State.storeBytes (s : State) (bytes : List Byte) : Memory :=
  Memory.writeList s.config s.machine.memory (s.machine.dataAddress 0) bytes

/-- `V[0]` to `V[x]`, the block that `FX55` stores (R141). -/
def MachineState.regsUpTo (m : MachineState) (x : Reg) : List Byte := m.v.toList.take (x.val + 1)

/-- Hundreds, tens and units of a byte (R143). -/
def decimalDigits (b : Byte) : List Byte :=
  [BitVec.ofNat 8 (b.toNat / 100), BitVec.ofNat 8 (b.toNat / 10 % 10), BitVec.ofNat 8 (b.toNat % 10)]

/-- The address of a glyph, `font_base + value*5`, with all 8 bits of the value (R125). -/
def glyphAddress (c : Config) (b : Byte) : Word := BitVec.ofNat 16 (c.fontBase + b.toNat * 5)

end Sys2Proof.Machine
end

