-- ==== Sys2Proof/Machine/Alu.lean ====
section
/-! DEFINITION. The ALU instructions `8XY0` to `8XYE` (spec/43_alu_register.md). -/

namespace Sys2Proof.Machine

/-- The shape of the four operations without a flag (R130): operands read, the result written, `VF` left alone. -/
def State.aluPlain (s : State) (x : Reg) (result : Byte) : Result := s.complete (s.machine.setReg x result).advance

/-- The shape of the five operations with a flag (R130): operands read before any write, the result written, the flag
written last, so that for `x = 15` the flag is what remains. -/
def State.aluFlag (s : State) (x : Reg) (result : Byte) (flag : Bool) : Result :=
  s.complete ((s.machine.setReg x result).setFlag flag).advance

/-- `8XY0` (R131). -/
def execLdReg (x y : Reg) (s : State) : Result := s.aluPlain x (s.machine.reg y)

/-- `8XY1` (R132). -/
def execOrReg (x y : Reg) (s : State) : Result := s.aluPlain x (s.machine.reg x ||| s.machine.reg y)

/-- `8XY2` (R133). -/
def execAndReg (x y : Reg) (s : State) : Result := s.aluPlain x (s.machine.reg x &&& s.machine.reg y)

/-- `8XY3` (R134). -/
def execXorReg (x y : Reg) (s : State) : Result := s.aluPlain x (s.machine.reg x ^^^ s.machine.reg y)

/-- `8XY4` (R135). -/
def execAddReg (x y : Reg) (s : State) : Result :=
  s.aluFlag x (s.machine.reg x + s.machine.reg y) (carryFlag (s.machine.reg x) (s.machine.reg y))

/-- `8XY5` (R136): `V[x] - V[y]`. -/
def execSubReg (x y : Reg) (s : State) : Result :=
  s.aluFlag x (s.machine.reg x - s.machine.reg y) (noBorrowFlag (s.machine.reg x) (s.machine.reg y))

/-- `8XY7` (R138): `V[y] - V[x]`, still into `V[x]`. -/
def execSubn (x y : Reg) (s : State) : Result :=
  s.aluFlag x (s.machine.reg y - s.machine.reg x) (noBorrowFlag (s.machine.reg y) (s.machine.reg x))

/-- `8XY6` (R137). -/
def execShr (x y : Reg) (s : State) : Result :=
  s.aluFlag x (s.shiftOperand x y >>> 1) (shiftOutRight (s.shiftOperand x y))

/-- `8XYE` (R139). -/
def execShl (x y : Reg) (s : State) : Result :=
  s.aluFlag x (s.shiftOperand x y <<< 1) (shiftOutLeft (s.shiftOperand x y))

end Sys2Proof.Machine
end

