-- ==== Sys2Proof/Machine/ControlFlow.lean ====
section
/-! DEFINITION. Jumps, call, return, conditional skips (spec/40_control_flow.md). `pc` on a right-hand side is the
instruction's own address (R25). -/

namespace Sys2Proof.Machine

/-- `1NNN` (R100). -/
def execJp (nnn : Nnn) (s : State) : Result := s.complete (s.machine.setPc (zextNnn nnn))

/-- `BNNN` (R101): 16 bits, never masked to 12. -/
def execJpV0 (nnn : Nnn) (s : State) : Result :=
  s.complete (s.machine.setPc (zextNnn nnn + zextByte (s.machine.reg 0)))

/-- `2NNN` (R102). -/
def execCall (nnn : Nnn) (s : State) : Result :=
  match s.machine.push (s.machine.pc + 2) with
  | none => .next (s.raise .stackOverflow s.machine.pc)
  | some m => s.complete (m.setPc (zextNnn nnn))

/-- `00EE` (R103). -/
def execRet (s : State) : Result :=
  match s.machine.pop with
  | none => .next (s.raise .stackUnderflow s.machine.pc)
  | some (w, m) => s.complete (m.setPc w)

/-- `3XNN` (R104). -/
def execSeImm (x : Reg) (nn : Byte) (s : State) : Result :=
  s.complete (s.machine.skipIf (s.machine.reg x == nn))

/-- `4XNN` (R105). -/
def execSneImm (x : Reg) (nn : Byte) (s : State) : Result :=
  s.complete (s.machine.skipIf (s.machine.reg x != nn))

/-- `5XY0` (R106). -/
def execSeReg (x y : Reg) (s : State) : Result :=
  s.complete (s.machine.skipIf (s.machine.reg x == s.machine.reg y))

/-- `9XY0` (R107). -/
def execSneReg (x y : Reg) (s : State) : Result :=
  s.complete (s.machine.skipIf (s.machine.reg x != s.machine.reg y))

end Sys2Proof.Machine
end

