-- ==== Sys2Proof/Machine/Display.lean ====
section
/-! DEFINITION. Clear screen and draw sprite (spec/46_display.md). -/

namespace Sys2Proof.Machine

/-- `00E0` (R160). -/
def execCls (s : State) : Result := s.complete (s.machine.setScreen Screen.blank).advance

/-- A draw in progress: the screen, and whether a pixel has gone from on to off so far. -/
structure Drawn where
  screen : Screen
  collision : Bool
  deriving DecidableEq, Repr

/-- R162's innermost step. `on` is the sprite bit; `px` and `py` are exact, a pixel off the screen is skipped. -/
def Drawn.pixelStep (d : Drawn) (on : Bool) (px py : Nat) : Drawn :=
  if on && decide (px ≤ 63) && decide (py ≤ 31) then
    { screen := d.screen.toggle px py, collision := d.collision || d.screen.pixel px py }
  else d

/-- R162's loop over `col` from `8 - k` to 7; bit `7 - col` of the row byte is the pixel at column `x0 + col`. -/
def Drawn.rowFrom (d : Drawn) (b : Byte) (x0 py : Nat) : Nat → Drawn
  | 0 => d
  | k + 1 => (d.pixelStep (b.getLsbD k) (x0 + (7 - k)) py).rowFrom b x0 py k

/-- R162's loop over the rows: one byte a row, the first at row `py`. -/
def Drawn.rows (d : Drawn) (x0 : Nat) : Nat → List Byte → Drawn
  | _, [] => d
  | py, b :: rest => (d.rowFrom b x0 py 8).rows x0 (py + 1) rest

/-- The draw of R162 on the live screen: origin `(x0, y0)`, row bytes top first. -/
def MachineState.draw (m : MachineState) (x0 y0 : Nat) (bytes : List Byte) : Drawn :=
  Drawn.rows { screen := m.screen, collision := false } x0 y0 bytes

/-- `DXYN` (R162): `V[x]` and `V[y]` are read first and never reduced; `VF` is written once, last. -/
def execDrw (x y : Reg) (n : Height) (s : State) : Result :=
  let d := s.machine.draw (s.machine.reg x).toNat (s.machine.reg y).toNat (s.dataBytes n.val)
  s.checkedAccess n.val (s.complete ((s.machine.setScreen d.screen).setFlag d.collision).advance)

end Sys2Proof.Machine
end

