-- ==== Sys2Proof/Machine/Immediate.lean ====
section
/-! DEFINITION. Register, immediate and index-register instructions (spec/42_register_immediate.md). None writes `VF`
as a flag and none can fault. -/

namespace Sys2Proof.Machine

/-- `6XNN` (R120). -/
def execLdImm (x : Reg) (nn : Byte) (s : State) : Result := s.complete (s.machine.setReg x nn).advance

/-- `7XNN` (R121): modulo 256, no flag. -/
def execAddImm (x : Reg) (nn : Byte) (s : State) : Result :=
  s.complete (s.machine.setReg x (s.machine.reg x + nn)).advance

/-- `ANNN` (R122). -/
def execLdI (nnn : Nnn) (s : State) : Result := s.complete (s.machine.setI (zextNnn nnn)).advance

/-- `CXNN` (R123): the byte `rnd` is a free value, drawn anew at each execution (R227, log entry 2). -/
def execRnd (x : Reg) (nn : Byte) (s : State) : Result :=
  s.countDraw.complete (s.machine.setReg x (nn &&& Config.randomByte s.draws)).advance

/-- `FX1E` (R124): modulo 65536, no flag, not masked to 12 bits. -/
def execAddI (x : Reg) (s : State) : Result :=
  s.complete (s.machine.setI (s.machine.i + zextByte (s.machine.reg x))).advance

/-- `FX29` (R125). -/
def execLdF (x : Reg) (s : State) : Result :=
  s.complete (s.machine.setI (glyphAddress s.config (s.machine.reg x))).advance

end Sys2Proof.Machine
end

