-- ==== Sys2Proof/Machine/Keys.lean ====
section
/-! DEFINITION. Skip on key, wait for a key tap (spec/41_key_input.md). -/

namespace Sys2Proof.Machine

/-- The two key skips share the index check (R113): the condition is asked of the key that `V[x]` names. -/
def State.keySkip (s : State) (x : Reg) (cond : Key → Bool) : Result :=
  match keyIndex (s.machine.reg x) with
  | none => .next (s.raise .keyIndexOutOfRange (zextByte (s.machine.reg x)))
  | some k => s.complete (s.machine.skipIf (cond k))

/-- `EX9E` (R110): skips when the key is down. -/
def execSkp (x : Reg) (s : State) : Result := s.keySkip x fun k => s.machine.keyDown k

/-- `EXA1` (R111): skips when the key is up. -/
def execSknp (x : Reg) (s : State) : Result := s.keySkip x fun k => !s.machine.keyDown k

/-- `FX0A` (R112): one phase a cycle, chosen by `pending`. Phase 1 records the least key that is down; phase 2 waits
for that key to go up, then commits it. Until then `pc` stays, so the instruction runs again. -/
def execLdVxK (x : Reg) (s : State) : Result :=
  match s.machine.pending with
  | none =>
    match s.machine.firstKeyDown with
    | none => s.complete s.machine
    | some k => s.complete (s.machine.setPending (some k))
  | some k =>
    if s.machine.keyDown k then s.complete s.machine
    else s.complete ((s.machine.setReg x (keyByte k)).setPending none).advance

end Sys2Proof.Machine
end

