-- ==== Sys2Proof/Machine/MemTransfer.lean ====
section
/-! DEFINITION. Loads and stores through `I` (spec/44_memory_transfer.md). `I` is never changed (R144). -/

namespace Sys2Proof.Machine

/-- `FX55` (R141): `x + 1` bytes, `V[0]` at `I` to `V[x]` at `I + x`. -/
def execStoreRegs (x : Reg) (s : State) : Result :=
  s.checkedAccess (x.val + 1) (s.complete (s.machine.setMemory (s.storeBytes (s.machine.regsUpTo x))).advance)

/-- `FX65` (R142): `x + 1` bytes. -/
def execLoadRegs (x : Reg) (s : State) : Result :=
  s.checkedAccess (x.val + 1) (s.complete (s.machine.setRegs (s.dataBytes (x.val + 1))).advance)

/-- `FX33` (R143): three digits, hundreds at `I`. -/
def execLdB (x : Reg) (s : State) : Result :=
  s.checkedAccess 3 (s.complete (s.machine.setMemory (s.storeBytes (decimalDigits (s.machine.reg x)))).advance)

end Sys2Proof.Machine
end

