-- ==== Sys2Proof/Machine/Timers.lean ====
section
/-! DEFINITION. Timer access (spec/45_timer_access.md). The countdown is the frame tick, Machine/Sequencer.lean. -/

namespace Sys2Proof.Machine

/-- `FX07` (R150). -/
def execLdVxDt (x : Reg) (s : State) : Result := s.complete (s.machine.setReg x s.machine.dt).advance

/-- `FX15` (R151). -/
def execLdDtVx (x : Reg) (s : State) : Result := s.complete (s.machine.setDt (s.machine.reg x)).advance

/-- `FX18` (R152). -/
def execLdStVx (x : Reg) (s : State) : Result := s.complete (s.machine.setSt (s.machine.reg x)).advance

end Sys2Proof.Machine
end

