-- ==== Sys2Proof/Machine/Sequencer.lean ====
section
/-! DEFINITION. The frame sequencer's conditions and the frame tick (spec/60_exceptions.md R221 to R223). -/

namespace Sys2Proof.Machine

/-- R221: no fault, not paused, and not cancelled at a frame boundary. -/
def State.enabled (s : State) : Bool :=
  decide (s.fault = none) && !s.paused && !(s.cancelled && decide (s.cycleInFrame = 0))

/-- R221: whether the frame still has cycles to run; otherwise the next step is the frame tick. -/
def State.cycleDue (s : State) : Bool := decide (s.cycleInFrame < s.config.ipf)

/-- R222: down by one, saturating at 0. -/
def countDown (t : Byte) : Byte := if t = 0 then 0 else t - 1

/-- R222's part of the tick. -/
def MachineState.tick (m : MachineState) : MachineState :=
  (m.setDt (countDown m.dt)).setSt (countDown m.st)

/-- R223's part of the tick: the outputs are latched and the frame starts over. -/
def State.publish (s : State) : State :=
  { s with screenOut := s.machine.screen, soundOut := s.machine.st, stateOut := s.machine, cycleInFrame := 0 }

/-- `FrameTick`: decrement, then publish. -/
def State.frameTick (s : State) : State := State.publish { s with machine := s.machine.tick }

/-- R220's count of a cycle that raised no fault. -/
def State.countCycle (s : State) : State :=
  if s.fault = none then { s with cycleInFrame := s.cycleInFrame + 1 } else s

end Sys2Proof.Machine
end

