-- ==== Sys2Proof/Machine/Unknown.lean ====
section
/-! DEFINITION. Executing a word that is no instruction (spec/47_unknown.md). -/

namespace Sys2Proof.Machine

/-- `Unknown(w)` (R170): nothing changes but the fault latch; `pc` does not advance. -/
def execUnknown (w : Word) (s : State) : Result := .next (s.raise .unknownOpcode w)

end Sys2Proof.Machine
end

