-- ==== Sys2Proof/Machine/Cycle.lean ====
section
/-! DEFINITION. The cycle and the core's step (spec/60_exceptions.md R220, R221, R203). -/

namespace Sys2Proof.Machine

/-- `execute(op)` (R220). -/
def execute (op : Operation) (s : State) : Result :=
  match op with
  | .known i => exec i s
  | .unknown w => execUnknown w s

/-- What R220 does after execute: a cycle without a fault is counted. -/
def counted (r : Result) : Result :=
  match r with
  | .next s => .next s.countCycle
  | .fault f => .fault f
  | .refused f => .refused f

/-- `Cycle` (R220): fetch, decode, execute. The fetch is checked first, and if it faults nothing is decoded (R203). -/
def State.cycle (s : State) : Result :=
  match s.fetch with
  | none => .next (s.raise .fetchOutOfBounds s.machine.pc)
  | some w => counted (execute (decode w) s)

/-- The core's turn (R221). Enabled: a cycle, or the frame tick when the frame's cycles are done. Not enabled: "the core
takes no step of its own": halted it stops (R211, log entry 4), paused or cancelled nothing changes (log entry 5). -/
def coreStep (s : State) : Result :=
  if s.enabled then (if s.cycleDue then s.cycle else .next s.frameTick)
  else
    match s.fault with
    | some record => .fault (.halted record)
    | none => .next s

end Sys2Proof.Machine
end

