-- ==== Sys2Proof/WellFormed.lean ====
section
/-! DEFINITION. The checks that the types do not already make.

An instruction needs none: R77 accepts every value of every field, and the operand types of `Instr` hold exactly
those values. What is checked is what the host brings: the configuration (R6) and a program (R251). -/

namespace Sys2Proof

/-- The legal configurations of R6: the font lies below the program, and a frame holds at least one cycle. -/
def Config.wellFormed (c : Config) : Bool :=
  decide (c.fontBase + 80 ≤ 0x200) && decide (1 ≤ c.clockRate) && decide (1 ≤ c.frameRate) && decide (1 ≤ c.ipf)

/-- The largest program, `4096 - 0x200` bytes (R57). -/
def maxProgramBytes : Nat := 3584

/-- The first condition of R251 on a program load: the program fits above 0x200. -/
def programFits (bytes : List Byte) : Bool :=
  decide (bytes.length ≤ maxProgramBytes)

end Sys2Proof
end

