-- ==== Sys2Proof/Machine/HostOps.lean ====
section
/-! DEFINITION. What the host does to the core between two steps (spec/60_exceptions.md R226 to R231,
spec/70_reset_and_hazards.md R250, R251). -/

namespace Sys2Proof.Machine

/-- `KeyDown(code)` and `KeyUp(code)` (R226): ignored while the core is halted (R211). -/
def State.writeKey (s : State) (code : Key) (down : Bool) : State :=
  if s.fault = none then { s with machine := s.machine.setKey code down } else s

/-- `SetPause(b)` (R228). -/
def State.setPause (s : State) (b : Bool) : State := { s with paused := b }

/-- `Cancel` (R229). -/
def State.cancel (s : State) : State := { s with cancelled := true }

/-- `SnapshotExport` (R230): a copy; the core is unchanged. -/
def State.snapshotExport (s : State) : Snapshot := ⟨s.machine, s.progId⟩

/-- The shape of R41: the types carry all of it but the memory's form. -/
def Snapshot.wellFormed (c : Config) (snap : Snapshot) : Bool := Memory.wf c snap.machine.memory

/-- Whether a snapshot is of the active program (R231). -/
def State.accepts (s : State) (snap : Snapshot) : Bool := decide (snap.progId = s.progId)

/-- `SnapshotLoad(s, id)` (R231): `MachineState` is replaced and the latch cleared if the identity matches; otherwise
nothing changes. -/
def State.snapshotLoad (s : State) (snap : Snapshot) : State :=
  if s.accepts snap then { s.clearFault with machine := snap.machine } else s

/-- The first address of a program (R5). -/
def programBase : Nat := 0x200

/-- Memory after a program load (R250): zeros and the font, then the program. -/
def programMemory (c : Config) (bytes : List Byte) : Memory := Memory.writeList c [] programBase bytes

/-- R251's two conditions. -/
def State.loadable (s : State) (bytes : List Byte) : Bool :=
  programFits bytes && decide (s.config.fontBase + 80 ≤ 0x200)

/-- `ProgramLoad(bytes, id)` (R250), the only reset. It discards everything but the inputs of R42: the configuration
(log entry 1), the host's plan and the count of drawn bytes (log entry 9). -/
def State.programLoad (s : State) (bytes : List Byte) (id : ProgramId) : State :=
  State.fresh s.config (programMemory s.config bytes) id s.turns s.draws

/-- One event of the host. -/
def hostStep (e : HostEvent) (s : State) : Result :=
  match e with
  | .keyDown code => .next (s.writeKey code true)
  | .keyUp code => .next (s.writeKey code false)
  | .setPause b => .next (s.setPause b)
  | .cancel => .next s.cancel
  | .snapshotExport => .next s
  | .snapshotLoad snap => if snap.wellFormed s.config then .next (s.snapshotLoad snap) else .refused .notASnapshot
  | .programLoad bytes id => if s.loadable bytes then .next (s.programLoad bytes id) else .refused .programLoadRefused

/-- What an event gives back to the host (R230, R231). -/
inductive HostReply where
  | nothing
  | snapshot (snap : Snapshot)
  | adopted (b : Bool)
  deriving DecidableEq, Repr

/-- The answer to an event asked of a state (log entry 16). -/
def HostEvent.reply (e : HostEvent) (s : State) : HostReply :=
  match e with
  | .keyDown _ => .nothing
  | .keyUp _ => .nothing
  | .setPause _ => .nothing
  | .cancel => .nothing
  | .snapshotExport => .snapshot s.snapshotExport
  | .snapshotLoad snap => .adopted (s.accepts snap)
  | .programLoad _ _ => .nothing

end Sys2Proof.Machine
end

