-- ==== Sys2Proof/Machine/Step.lean ====
section
/-! DEFINITION. The step, and placing a word where the next instruction is fetched. -/

namespace Sys2Proof.Machine

/-- One step: the next turn of the host's plan, the core's if the plan is used up (R221, log entry 3). -/
def step (s : State) : Host.Outcome State Fault Refusal :=
  match s.turns with
  | [] => coreStep s
  | .core :: rest => coreStep { s with turns := rest }
  | .host e :: rest => hostStep e { s with turns := rest }

/-- The state with a word's two bytes stored at `pc`, where the next cycle fetches (R51, R52). It stands for the load
of a program from outside (log entry 8). -/
def State.withFetchWord (s : State) (nbits w : Nat) : State :=
  let bytes := [highByte (tableWord nbits w), lowByte (tableWord nbits w)]
  let memory := Memory.writeList s.config s.machine.memory s.machine.pc.toNat bytes
  { s with machine := s.machine.setMemory memory }

end Sys2Proof.Machine
end

