-- ==== Sys2Proof/Safety.lean ====
section
/-! DEFINITION. The terms claims are stated in: frames, invariants, how a run can end (spec/70_reset_and_hazards.md
R266). -/

namespace Sys2Proof.Machine

/-! ### Frames: what a step may change -/

/-- The parts of State, memory byte by byte and registers one by one. -/
inductive Part where
  | byte (a : Nat)
  | reg (x : Reg)
  | i
  | pc
  | slot (k : Fin 16)
  | sp
  | dt
  | st
  | pixel (x y : Nat)
  | key (k : Key)
  | pending
  | fault
  | paused
  | cancelled
  | cycleInFrame
  | progId
  | outputs
  | config
  | turns
  | draws
  deriving DecidableEq, Repr

/-- The part reads the same in both states. -/
def Part.Same (s t : State) : Part → Prop
  | .byte a => t.readByte a = s.readByte a
  | .reg x => t.machine.reg x = s.machine.reg x
  | .i => t.machine.i = s.machine.i
  | .pc => t.machine.pc = s.machine.pc
  | .slot k => t.machine.stack[k] = s.machine.stack[k]
  | .sp => t.machine.sp = s.machine.sp
  | .dt => t.machine.dt = s.machine.dt
  | .st => t.machine.st = s.machine.st
  | .pixel x y => t.machine.screen.pixel x y = s.machine.screen.pixel x y
  | .key k => t.machine.keyDown k = s.machine.keyDown k
  | .pending => t.machine.pending = s.machine.pending
  | .fault => t.fault = s.fault
  | .paused => t.paused = s.paused
  | .cancelled => t.cancelled = s.cancelled
  | .cycleInFrame => t.cycleInFrame = s.cycleInFrame
  | .progId => t.progId = s.progId
  | .outputs => t.screenOut = s.screenOut ∧ t.soundOut = s.soundOut ∧ t.stateOut = s.stateOut
  | .config => t.config = s.config
  | .turns => t.turns = s.turns
  | .draws => t.draws = s.draws

/-- From `s` to `t` nothing changes but the parts that `may` allows. -/
def OnlyChanges (s t : State) (may : Part → Prop) : Prop := ∀ p : Part, ¬ may p → p.Same s t

/-- The instruction completes: `exec` answers a next state, of which `post` holds, and nothing changes but the parts
that `may` allows. -/
def Completes (i : Instr) (s : State) (may : Part → Prop) (post : State → Prop) : Prop :=
  ∃ t, exec i s = .next t ∧ post t ∧ OnlyChanges s t may

/-- The instruction raises: the fault latch is set to the cause and its `info`, and nothing else changes (R210). -/
def Raises (i : Instr) (s : State) (cause : FaultCause) (info : Word) : Prop :=
  exec i s = .next { s with fault := some ⟨cause, info⟩ }

/-- The registers an instruction may write: its destination, and `VF` for the flag writers (R23, R40). -/
def writesReg (i : Instr) (r : Reg) : Prop :=
  match i with
  | .ldImm x _ | .addImm x _ | .rnd x _ | .ldReg x _ | .orReg x _ | .andReg x _ | .xorReg x _ | .ldVxDt x | .ldVxK x =>
    r = x
  | .addReg x _ | .subReg x _ | .subn x _ | .shr x _ | .shl x _ => r = x ∨ r = 15
  | .drw _ _ _ => r = 15
  | .loadRegs x => r ≤ x
  | .cls | .ret | .jp _ | .call _ | .seImm _ _ | .sneImm _ _ | .seReg _ _ | .sneReg _ _ | .ldI _ | .jpV0 _ | .skp _
  | .sknp _ | .ldDtVx _ | .ldStVx _ | .addI _ | .ldF _ | .ldB _ | .storeRegs _ => False

/-- The instructions that write `VF` as a flag (R23's table). -/
def writesFlag (i : Instr) : Prop :=
  (∃ x y, i = .addReg x y ∨ i = .subReg x y ∨ i = .subn x y ∨ i = .shr x y ∨ i = .shl x y) ∨ ∃ x y n, i = .drw x y n

/-- The sprite's bit at column `px`, row `py`, of a draw of `n` rows at `(x0, y0)`: bit `7 - col` of the byte at
`I + row` (R162). -/
def State.spriteBit (s : State) (x0 y0 n px py : Nat) : Bool :=
  decide (x0 ≤ px) && decide (px < x0 + 8) && decide (y0 ≤ py) && decide (py < y0 + n) &&
    (s.readByte (s.machine.i.toNat + (py - y0))).getLsbD (7 - (px - x0))

/-! ### Invariants -/

/-- What holds in every state a run reaches (R38), with the latches of one tick agreeing (R223): a legal configuration,
memories in canonical form, `cycle_in_frame` within the frame, and `screen_out` and `sound_out` those of `state_out`. -/
structure State.Inv (s : State) : Prop where
  config : s.config.wellFormed = true
  memory : Memory.wf s.config s.machine.memory = true
  published : Memory.wf s.config s.stateOut.memory = true
  frame : s.cycleInFrame ≤ s.config.ipf
  screenLatch : s.screenOut = s.stateOut.screen
  soundLatch : s.soundOut = s.stateOut.st

/-- The instruction at `pc`, if a word can be fetched there and is one. -/
def State.instrAtPc (s : State) : Option Instr :=
  match s.fetch with
  | none => none
  | some w => match decode w with
    | .known i => some i
    | .unknown _ => none

/-- The frozen state still shows why the core halted: the cause's condition of R200 holds of it, `info` is the value
R200 gives, and `pc` still addresses the instruction that faulted (R210). -/
def State.explains (s : State) (f : FaultRecord) : Prop :=
  match f.cause with
  | .unknownOpcode => s.fetch = some f.info ∧ decode f.info = .unknown f.info
  | .fetchOutOfBounds => s.machine.pc.toNat + 1 > 4095 ∧ f.info = s.machine.pc
  | .stackOverflow => (∃ nnn, s.instrAtPc = some (.call nnn)) ∧ s.machine.sp.val = 16 ∧ f.info = s.machine.pc
  | .stackUnderflow => s.instrAtPc = some .ret ∧ s.machine.sp.val = 0 ∧ f.info = s.machine.pc
  | .keyIndexOutOfRange => ∃ x, (s.instrAtPc = some (.skp x) ∨ s.instrAtPc = some (.sknp x)) ∧
      (s.machine.reg x).toNat > 15 ∧ f.info = zextByte (s.machine.reg x)
  | .memoryOutOfBounds => f.info = s.machine.i ∧
      ((∃ x, s.instrAtPc = some (.ldB x) ∧ s.machine.i.toNat + 2 > 4095) ∨
       (∃ x, s.instrAtPc = some (.storeRegs x) ∧ s.machine.i.toNat + x.val > 4095) ∨
       (∃ x, s.instrAtPc = some (.loadRegs x) ∧ s.machine.i.toNat + x.val > 4095) ∨
       (∃ x y n, s.instrAtPc = some (.drw x y n) ∧ n.val ≥ 1 ∧ s.machine.i.toNat + n.val - 1 > 4095))

/-- A set latch is explained by the state. -/
def State.FaultExplained (s : State) : Prop := ∀ f, s.fault = some f → s.explains f

/-! ### Runs and their ends -/

/-- It is the core's turn, and `s'` is the state it acts on. -/
def State.coreTurn (s : State) (s' : State) : Prop :=
  (s.turns = [] ∧ s' = s) ∨ ∃ rest, s.turns = .core :: rest ∧ s' = { s with turns := rest }

/-- It is the host's turn with the event `e`, and `s'` is the state it acts on. -/
def State.hostTurn (s : State) (e : HostEvent) (s' : State) : Prop :=
  ∃ rest, s.turns = .host e :: rest ∧ s' = { s with turns := rest }

/-- R221's condition for the core to take a step of its own. -/
def State.Enabled (s : State) : Prop :=
  s.fault = none ∧ s.paused = false ∧ ¬(s.cancelled = true ∧ s.cycleInFrame = 0)

/-- FAULTED (R266): never a successful end. -/
def State.faulted (s : State) : Bool := decide (s.fault ≠ none)

/-- CANCELLED (R266): stopped at a frame boundary, a legitimate end state. -/
def State.cancelledAtBoundary (s : State) : Bool := s.cancelled && decide (s.cycleInFrame = 0)

/-- SPINNING (R266): the instruction at `pc` is a jump to itself. -/
def State.spinning (s : State) : Bool :=
  match s.instrAtPc with
  | some (.jp nnn) => decide (zextNnn nnn = s.machine.pc)
  | _ => false

/-- A safe run of `n` steps: the core never stops, nothing is refused, and no fatal condition was met. -/
def SafeRun (n : Nat) (s : State) : Prop :=
  ∃ t : State, Host.Core.run Sys2Proof.core n s = .next t ∧ t.fault = none

end Sys2Proof.Machine
end

