-- ==== Sys2Proof/Certificates/Slice0/Obligations.lean ====
section
/-! DEFINITION. The statements about the model. Frames are said with `OnlyChanges`, results through the named reads
(`reg`, `readByte`, `pixel`); an encoding clause says which words decode to the instruction. The opcode map behind those
clauses is the spec's decision D2 (log entry 12). -/

open Sys2Proof Sys2Proof.Machine

/-! ### Encoding -/

/-- 95_test_vectors.md section 2.1: words of every family decode as listed there. -/
def Obligations.SampleWordsDecode : Prop :=
  decode 0x00E0 = .known .cls ∧ decode 0x00EE = .known .ret ∧ decode 0x10E0 = .known (.jp 0x0E0) ∧
  decode 0x3A7F = .known (.seImm 10 0x7F) ∧ decode 0x5AB0 = .known (.seReg 10 11) ∧ decode 0x5AB1 = .unknown 0x5AB1 ∧
  decode 0x7EFF = .known (.addImm 14 0xFF) ∧ decode 0x8AB7 = .known (.subn 10 11) ∧ decode 0x8AB8 = .unknown 0x8AB8 ∧
  decode 0xA123 = .known (.ldI 0x123) ∧ decode 0xD12F = .known (.drw 1 2 15) ∧ decode 0xE3A1 = .known (.sknp 3) ∧
  decode 0xF30A = .known (.ldVxK 3) ∧ decode 0xF318 = .known (.ldStVx 3) ∧ decode 0xF355 = .known (.storeRegs 3)

/-- Every instruction, with every operand at every value, comes back from its bytes, whatever follows them. -/
def Obligations.DecodeOfEncode : Prop :=
  ∀ (i : Instr) (rest : List Byte), decodeBytes (encodeBytes i ++ rest) = some (.known i, rest)

/-- The other direction: a word is the encoding of the instruction it decodes to, and what is no instruction decodes to
`Unknown` of the same word. -/
def Obligations.EncodeOfDecode : Prop :=
  ∀ w : Word, (∀ i, decode w = .known i → encode i = w) ∧ (∀ v, decode w = .unknown v → v = w)

/-- The decoder of R76 against the table of R78: a word decodes to an instruction exactly if a row selects it, the row
is the instruction's, and no second row selects the word (R75). -/
def Obligations.DecoderAgreesWithTable : Prop :=
  ∀ w : Word,
    (∀ i, decode w = .known i → ∃ r ∈ opcodeTable, r.mnemonic = i.mnemonic ∧ r.selects w = true) ∧
    (∀ v, decode w = .unknown v → ∀ r ∈ opcodeTable, r.selects w = false) ∧
    (∀ r ∈ opcodeTable, ∀ q ∈ opcodeTable, r.selects w = true → q.selects w = true → r = q)

/-- The words that are `Unknown`, exhaustively (the list of 30_encoding.md section 6). -/
def Obligations.UnknownWordsExactly : Prop :=
  ∀ w : Word, decode w = .unknown w ↔
    (opNibble w = 0x0 ∧ w ≠ 0x00E0 ∧ w ≠ 0x00EE) ∨ (opNibble w = 0x5 ∧ fieldN w ≠ 0) ∨
    (opNibble w = 0x8 ∧ fieldN w ∈ [8, 9, 10, 11, 12, 13, 15]) ∨ (opNibble w = 0x9 ∧ fieldN w ≠ 0) ∨
    (opNibble w = 0xE ∧ fieldNn w ≠ 0x9E ∧ fieldNn w ≠ 0xA1) ∨
    (opNibble w = 0xF ∧ fieldNn w ∉ [0x07, 0x0A, 0x15, 0x18, 0x1E, 0x29, 0x33, 0x55, 0x65])

/-! ### The step -/

/-- R220, with R52's fetch and R170's unknown word: on an enabled core whose frame has cycles left, a step fetches the
two bytes at `pc`, decodes them and executes; a cycle that raised no fault is counted. -/
def Obligations.CycleFetchesDecodesExecutes : Prop :=
  ∀ s s' : State, s.coreTurn s' → s'.Enabled → s'.cycleInFrame < s'.config.ipf →
    (s'.machine.pc.toNat + 1 > 4095 → step s = .next { s' with fault := some ⟨.fetchOutOfBounds, s'.machine.pc⟩ }) ∧
    (s'.machine.pc.toNat + 1 ≤ 4095 → ∀ i t,
      decodeBytes [s'.readByte s'.machine.pc.toNat, s'.readByte (s'.machine.pc.toNat + 1)] = some (.known i, []) →
      exec i s' = .next t →
      step s = .next (if t.fault = none then { t with cycleInFrame := t.cycleInFrame + 1 } else t)) ∧
    (s'.machine.pc.toNat + 1 ≤ 4095 → ∀ w,
      decodeBytes [s'.readByte s'.machine.pc.toNat, s'.readByte (s'.machine.pc.toNat + 1)] = some (.unknown w, []) →
      step s = .next { s' with fault := some ⟨.unknownOpcode, w⟩ })

/-- R222 and the publish part of the tick (R223, the spec's decision D25): when the frame's cycles are done the step
decrements both timers, saturating at 0, then latches screen, sound timer and state, and starts the next frame. -/
def Obligations.TickCountsDownAndPublishes : Prop :=
  ∀ s s' : State, s.coreTurn s' → s'.Enabled → s'.config.ipf ≤ s'.cycleInFrame →
    ∃ t, step s = .next t ∧ t.machine.dt.toNat = s'.machine.dt.toNat - 1 ∧
      t.machine.st.toNat = s'.machine.st.toNat - 1 ∧ t.screenOut = s'.machine.screen ∧ t.soundOut = t.machine.st ∧
      t.stateOut = t.machine ∧ t.cycleInFrame = 0 ∧
      OnlyChanges s' t (fun p => p = .dt ∨ p = .st ∨ p = .outputs ∨ p = .cycleInFrame)

/-- A core that is not enabled takes no step of its own (R221). That it then answers the same state, and that a halted
core answers the outcome `fault`, are the model's choices (log entries 4 and 5). -/
def Obligations.DisabledCoreStandsStill : Prop :=
  ∀ s s' : State, s.coreTurn s' → ¬ s'.Enabled →
    (s'.fault = none → step s = .next s') ∧ (∀ f, s'.fault = some f → step s = .fault (.halted f))

/-- 70_reset_and_hazards.md R264: an enabled core makes progress. Its step answers a next state in which the frame has
moved on or the latch is set. -/
def Obligations.EnabledCoreProgresses : Prop :=
  ∀ s s' : State, s.coreTurn s' → s'.Enabled → 1 ≤ s'.config.ipf →
    ∃ t, step s = .next t ∧ (t.fault ≠ none ∨ t.cycleInFrame ≠ s'.cycleInFrame)

/-- A frame is `IPF` cycles and one tick (R221): along any run of the core alone that meets no fault, `cycle_in_frame`
counts the steps modulo `IPF + 1`. -/
def Obligations.FramesAreRegular : Prop :=
  ∀ (n : Nat) (s t : State), s.turns = [] → s.paused = false → s.cancelled = false →
    s.cycleInFrame ≤ s.config.ipf → Host.Core.run Sys2Proof.core n s = .next t → t.fault = none →
    t.cycleInFrame = (s.cycleInFrame + n) % (s.config.ipf + 1)

/-- 45_timer_access.md R151: a value in a timer reads as 0 after that many ticks, and never below. -/
def Obligations.TimersCountTicks : Prop :=
  ∀ (n : Nat) (s : State),
    ((State.frameTick^[n]) s).machine.dt.toNat = s.machine.dt.toNat - n ∧
    ((State.frameTick^[n]) s).machine.st.toNat = s.machine.st.toNat - n

/-- R266: while the instruction at `pc` is a jump to itself, no cycle changes anything but `cycle_in_frame`. -/
def Obligations.SpinChangesOnlyTheFrame : Prop :=
  ∀ s s' : State, s.coreTurn s' → s'.Enabled → s'.cycleInFrame < s'.config.ipf → s'.spinning = true →
    step s = .next { s' with cycleInFrame := s'.cycleInFrame + 1 }

/-! ### Invariants -/

/-- The invariant of 10_state.md R38 (with the canonical form of memory and the agreement of the output latches) is
kept by every step, the core's and the host's. -/
def Obligations.StepKeepsInv : Prop := ∀ s t : State, s.Inv → step s = .next t → t.Inv

/-- The invariant holds after reset, and the reset state is what a load of the empty program leaves under the default
configuration (log entry 8). -/
def Obligations.ResetIsEmptyLoadWithInv : Prop :=
  State.reset.Inv ∧
  ∀ s : State, s.config = Config.default → s.turns = [] → s.draws = 0 → s.programLoad [] ⟨0⟩ = State.reset

/-- A set latch is always explained by the frozen state: the cause's condition holds, `info` is the value R200 gives,
`pc` still addresses the instruction that faulted (R210). Every step keeps this. -/
def Obligations.StepKeepsFaultExplained : Prop :=
  ∀ s t : State, s.FaultExplained → step s = .next t → t.FaultExplained

/-- Two memories in canonical form that read alike at every address of memory are the same list. -/
def Obligations.CanonicalMemoriesAreEqual : Prop :=
  ∀ (c : Config) (m k : Memory), Memory.wf c m = true → Memory.wf c k = true →
    (∀ a, a < 4096 → Memory.read c m a = Memory.read c k a) → m = k

/-! ### Rules over all instructions and events -/

/-- R210: an instruction that raises changes nothing but the latch. -/
def Obligations.FaultsArePrecise : Prop :=
  ∀ (i : Instr) (s t : State), s.fault = none → exec i s = .next t → t.fault ≠ none → t = { s with fault := t.fault }

/-- The access matrix (R40): every instruction answers a next state, and in it the keys, the run control but for the
latch, the identity, the output latches, the configuration and the host's plan are as before. -/
def Obligations.InstructionsLeaveRunControl : Prop :=
  ∀ (i : Instr) (s : State), ∃ t, exec i s = .next t ∧
    (∀ k, t.machine.keyDown k = s.machine.keyDown k) ∧ t.paused = s.paused ∧ t.cancelled = s.cancelled ∧
    t.cycleInFrame = s.cycleInFrame ∧ t.progId = s.progId ∧ t.screenOut = s.screenOut ∧ t.soundOut = s.soundOut ∧
    t.stateOut = s.stateOut ∧ t.config = s.config ∧ t.turns = s.turns

/-- The access matrix (R40): memory is written by `FX33` and `FX55` alone, the screen by `00E0` and `DXYN`, the stack
and its pointer by `2NNN` and `00EE`, `I` by `ANNN FX1E FX29`, `DT` by `FX15`, `ST` by `FX18`, `pending` by `FX0A`. -/
def Obligations.AccessMatrixOfWrites : Prop :=
  ∀ (i : Instr) (s t : State), exec i s = .next t →
    ((∃ a, t.readByte a ≠ s.readByte a) → ∃ x, i = .ldB x ∨ i = .storeRegs x) ∧
    (t.machine.screen ≠ s.machine.screen → i = .cls ∨ ∃ x y n, i = .drw x y n) ∧
    (t.machine.stack ≠ s.machine.stack → ∃ nnn, i = .call nnn) ∧
    (t.machine.sp ≠ s.machine.sp → i = .ret ∨ ∃ nnn, i = .call nnn) ∧
    (t.machine.i ≠ s.machine.i → (∃ nnn, i = .ldI nnn) ∨ ∃ x, i = .addI x ∨ i = .ldF x) ∧
    (t.machine.dt ≠ s.machine.dt → ∃ x, i = .ldDtVx x) ∧
    (t.machine.st ≠ s.machine.st → ∃ x, i = .ldStVx x) ∧
    (t.machine.pending ≠ s.machine.pending → ∃ x, i = .ldVxK x)

/-- R23: a register changes only in an instruction that names it as destination or, for `VF`, writes the flag; and a
flag writer that raises no fault leaves 0 or 1 in `VF`. -/
def Obligations.RegistersChangeOnlyAsNamed : Prop :=
  ∀ (i : Instr) (s t : State), exec i s = .next t →
    (∀ r, t.machine.reg r ≠ s.machine.reg r → writesReg i r) ∧
    (writesFlag i → s.fault = none → t.fault = none → t.machine.reg 15 = 0 ∨ t.machine.reg 15 = 1)

/-- No step, of the core or of the host, changes the configuration. R265 fixes it from one program load to the next;
that a program load keeps it too is the model's choice (log entry 1, DESIGN CHOICE). -/
def Obligations.ConfigIsConstant : Prop := ∀ s t : State, step s = .next t → t.config = s.config

/-- R211 and R214: a set latch is cleared only by a program load or by a snapshot load of the active program; any other
step leaves the latch, `MachineState`, the frame position and the outputs as they are. -/
def Obligations.OnlyLoadsClearTheLatch : Prop :=
  ∀ (s t : State) (f : FaultRecord), s.fault = some f → step s = .next t →
    (t.fault = some f ∧ t.machine = s.machine ∧ t.cycleInFrame = s.cycleInFrame ∧ t.screenOut = s.screenOut ∧
      t.soundOut = s.soundOut ∧ t.stateOut = s.stateOut) ∨
    (t.fault = none ∧ ∃ s', (∃ snap, s.hostTurn (.snapshotLoad snap) s' ∧ snap.progId = s.progId) ∨
      ∃ bytes id, s.hostTurn (.programLoad bytes id) s')

/-- R202: nothing outside the program redirects `pc`. The host's events other than the two loads leave `pc`, the
registers, `I`, memory and the stack alone, and so does the frame tick. -/
def Obligations.OutsideEventsLeaveControlFlow : Prop :=
  (∀ (e : HostEvent) (s t : State), (∀ snap, e ≠ .snapshotLoad snap) → (∀ b id, e ≠ .programLoad b id) →
    hostStep e s = .next t →
    t.machine.pc = s.machine.pc ∧ t.machine.v = s.machine.v ∧ t.machine.i = s.machine.i ∧
    t.machine.memory = s.machine.memory ∧ t.machine.stack = s.machine.stack ∧ t.machine.sp = s.machine.sp) ∧
  (∀ s : State, s.frameTick.machine.pc = s.machine.pc ∧ s.frameTick.machine.v = s.machine.v ∧
    s.frameTick.machine.i = s.machine.i ∧ s.frameTick.machine.memory = s.machine.memory ∧
    s.frameTick.machine.stack = s.machine.stack ∧ s.frameTick.machine.sp = s.machine.sp)

/-! ### Control flow -/

/-- R100. -/
def Obligations.JumpLoadsPc : Prop :=
  (∀ w, opNibble w = 0x1 → decode w = .known (.jp (fieldNnn w))) ∧
  ∀ (nnn : Nnn) (s : State),
    Completes (.jp nnn) s (fun p => p = .pc) (fun t => t.machine.pc.toNat = nnn.toNat)

/-- R101, whose points "never masked to 12 bits" and "the wrap never occurs" are the spec's decision D9 and its own
derivation: the sum is exact, at most 0x10FE. -/
def Obligations.ComputedJumpAddsV0 : Prop :=
  (∀ w, opNibble w = 0xB → decode w = .known (.jpV0 (fieldNnn w))) ∧
  ∀ (nnn : Nnn) (s : State),
    Completes (.jpV0 nnn) s (fun p => p = .pc)
      (fun t => t.machine.pc.toNat = nnn.toNat + (s.machine.reg 0).toNat ∧ t.machine.pc.toNat ≤ 0x10FE)

/-- R102: below 16 entries the call pushes the address of the next instruction; with 16 it raises StackOverflow. -/
def Obligations.CallPushesReturnAddress : Prop :=
  (∀ w, opNibble w = 0x2 → decode w = .known (.call (fieldNnn w))) ∧
  ∀ (nnn : Nnn) (s : State),
    (∀ h : s.machine.sp.val < 16,
      Completes (.call nnn) s (fun p => p = .slot ⟨s.machine.sp.val, h⟩ ∨ p = .sp ∨ p = .pc)
        (fun t => t.machine.stack[s.machine.sp.val] = s.machine.pc + 2 ∧ t.machine.sp.val = s.machine.sp.val + 1 ∧
          t.machine.pc.toNat = nnn.toNat)) ∧
    (s.machine.sp.val = 16 → Raises (.call nnn) s .stackOverflow s.machine.pc)

/-- R103; that the popped slot keeps its value is the spec's decision D20. -/
def Obligations.ReturnPopsAddress : Prop :=
  decode 0x00EE = .known .ret ∧
  ∀ s : State,
    (∀ h : 0 < s.machine.sp.val,
      Completes .ret s (fun p => p = .sp ∨ p = .pc)
        (fun t => t.machine.sp.val = s.machine.sp.val - 1 ∧
          t.machine.pc = s.machine.stack[s.machine.sp.val - 1]'(by omega))) ∧
    (s.machine.sp.val = 0 → Raises .ret s .stackUnderflow s.machine.pc)

/-- CH8's scenario (95 S8) for every state: a call and then a return lead to the instruction after the call, with the
stack pointer as before. -/
def Obligations.ReturnUndoesCall : Prop :=
  ∀ (nnn : Nnn) (s : State), s.machine.sp.val < 16 →
    ∃ t u, exec (.call nnn) s = .next t ∧ exec .ret t = .next u ∧ u.machine.pc = s.machine.pc + 2 ∧
      u.machine.sp = s.machine.sp

/-- R104 and R105. -/
def Obligations.SkipsOnImmediate : Prop :=
  (∀ w, opNibble w = 0x3 → decode w = .known (.seImm (fieldX w) (fieldNn w))) ∧
  (∀ w, opNibble w = 0x4 → decode w = .known (.sneImm (fieldX w) (fieldNn w))) ∧
  ∀ (x : Reg) (nn : Byte) (s : State),
    Completes (.seImm x nn) s (fun p => p = .pc)
      (fun t => t.machine.pc = s.machine.pc + (if s.machine.reg x = nn then 4 else 2)) ∧
    Completes (.sneImm x nn) s (fun p => p = .pc)
      (fun t => t.machine.pc = s.machine.pc + (if s.machine.reg x ≠ nn then 4 else 2))

/-- R106 and R107. -/
def Obligations.SkipsOnRegisters : Prop :=
  (∀ w, opNibble w = 0x5 → fieldN w = 0 → decode w = .known (.seReg (fieldX w) (fieldY w))) ∧
  (∀ w, opNibble w = 0x9 → fieldN w = 0 → decode w = .known (.sneReg (fieldX w) (fieldY w))) ∧
  (∀ w, opNibble w = 0x5 ∨ opNibble w = 0x9 → fieldN w ≠ 0 → decode w = .unknown w) ∧
  ∀ (x y : Reg) (s : State),
    Completes (.seReg x y) s (fun p => p = .pc)
      (fun t => t.machine.pc = s.machine.pc + (if s.machine.reg x = s.machine.reg y then 4 else 2)) ∧
    Completes (.sneReg x y) s (fun p => p = .pc)
      (fun t => t.machine.pc = s.machine.pc + (if s.machine.reg x ≠ s.machine.reg y then 4 else 2))

/-! ### Keys -/

/-- R110 and R111: the key named by `V[x]`, neither masked nor clamped; above 15 the instruction raises. -/
def Obligations.SkipsOnKey : Prop :=
  (∀ w, opNibble w = 0xE → fieldNn w = 0x9E → decode w = .known (.skp (fieldX w))) ∧
  (∀ w, opNibble w = 0xE → fieldNn w = 0xA1 → decode w = .known (.sknp (fieldX w))) ∧
  ∀ (x : Reg) (s : State),
    (∀ k : Key, (s.machine.reg x).toNat = k.val →
      Completes (.skp x) s (fun p => p = .pc)
        (fun t => t.machine.pc = s.machine.pc + (if s.machine.keyDown k = true then 4 else 2)) ∧
      Completes (.sknp x) s (fun p => p = .pc)
        (fun t => t.machine.pc = s.machine.pc + (if s.machine.keyDown k = false then 4 else 2))) ∧
    ((s.machine.reg x).toNat > 15 → ∀ info : Word, info.toNat = (s.machine.reg x).toNat →
      Raises (.skp x) s .keyIndexOutOfRange info ∧ Raises (.sknp x) s .keyIndexOutOfRange info)

/-- R112. That "the first true" key is the least one, and that a cycle does one phase, are the spec's decisions D19 and
D35. -/
def Obligations.KeyWaitHasTwoPhases : Prop :=
  (∀ w, opNibble w = 0xF → fieldNn w = 0x0A → decode w = .known (.ldVxK (fieldX w))) ∧
  ∀ (x : Reg) (s : State),
    (s.machine.pending = none → (∀ k, s.machine.keyDown k = false) → exec (.ldVxK x) s = .next s) ∧
    (∀ k, s.machine.pending = none → s.machine.keyDown k = true → (∀ j, j < k → s.machine.keyDown j = false) →
      Completes (.ldVxK x) s (fun p => p = .pending) (fun t => t.machine.pending = some k)) ∧
    (∀ k, s.machine.pending = some k → s.machine.keyDown k = true → exec (.ldVxK x) s = .next s) ∧
    (∀ k, s.machine.pending = some k → s.machine.keyDown k = false →
      Completes (.ldVxK x) s (fun p => p = .reg x ∨ p = .pending ∨ p = .pc)
        (fun t => (t.machine.reg x).toNat = k.val ∧ t.machine.pending = none ∧ t.machine.pc = s.machine.pc + 2))

/-- CH8's scenario (95 S9) for every register and key: the core runs `FX0A`, the host releases the key, the core runs
it again. The key's number is committed only then. -/
def Obligations.KeyTapCommitsAfterRelease : Prop :=
  ∀ (x : Reg) (k : Key) (w : Word) (s : State),
    s.turns = [.core, .host (.keyUp k), .core] → s.fault = none → s.paused = false → s.cancelled = false →
    s.cycleInFrame + 1 < s.config.ipf → s.fetch = some w → decode w = .known (.ldVxK x) →
    s.machine.pending = none → s.machine.keyDown k = true → (∀ j, j < k → s.machine.keyDown j = false) →
    ∃ m t, Host.Core.run Sys2Proof.core 2 s = .next m ∧ m.machine.reg x = s.machine.reg x ∧
      m.machine.pc = s.machine.pc ∧ m.machine.pending = some k ∧
      Host.Core.run Sys2Proof.core 3 s = .next t ∧ (t.machine.reg x).toNat = k.val ∧
      t.machine.pc = s.machine.pc + 2 ∧ t.machine.pending = none

/-! ### Register, immediate and index register -/

/-- R120. -/
def Obligations.LoadsImmediate : Prop :=
  (∀ w, opNibble w = 0x6 → decode w = .known (.ldImm (fieldX w) (fieldNn w))) ∧
  ∀ (x : Reg) (nn : Byte) (s : State),
    Completes (.ldImm x nn) s (fun p => p = .reg x ∨ p = .pc)
      (fun t => t.machine.reg x = nn ∧ t.machine.pc = s.machine.pc + 2)

/-- R121: modulo 256; `VF` is in the frame unless it is the destination. -/
def Obligations.AddsImmediate : Prop :=
  (∀ w, opNibble w = 0x7 → decode w = .known (.addImm (fieldX w) (fieldNn w))) ∧
  ∀ (x : Reg) (nn : Byte) (s : State),
    Completes (.addImm x nn) s (fun p => p = .reg x ∨ p = .pc)
      (fun t => (t.machine.reg x).toNat = ((s.machine.reg x).toNat + nn.toNat) % 256 ∧
        t.machine.pc = s.machine.pc + 2)

/-- R122. -/
def Obligations.LoadsIndex : Prop :=
  (∀ w, opNibble w = 0xA → decode w = .known (.ldI (fieldNnn w))) ∧
  ∀ (nnn : Nnn) (s : State),
    Completes (.ldI nnn) s (fun p => p = .i ∨ p = .pc)
      (fun t => t.machine.i.toNat = nnn.toNat ∧ t.machine.pc = s.machine.pc + 2)

/-- R123, whose free input `rnd` is the spec's decision D24 and in the model a free value (log entry 2): the result is
the mask of some byte, so it has no bit outside `nn` and is at most `nn`; one draw is counted. -/
def Obligations.RandomByteIsMasked : Prop :=
  (∀ w, opNibble w = 0xC → decode w = .known (.rnd (fieldX w) (fieldNn w))) ∧
  ∀ (x : Reg) (nn : Byte) (s : State),
    Completes (.rnd x nn) s (fun p => p = .reg x ∨ p = .pc ∨ p = .draws)
      (fun t => t.machine.reg x = nn &&& Config.randomByte s.draws ∧ t.machine.reg x &&& ~~~nn = 0 ∧
        (t.machine.reg x).toNat ≤ nn.toNat ∧ t.machine.pc = s.machine.pc + 2 ∧ t.draws = s.draws + 1)

/-- R124; that `I` is never masked to 12 bits is the spec's decision D9. -/
def Obligations.AddsToIndex : Prop :=
  (∀ w, opNibble w = 0xF → fieldNn w = 0x1E → decode w = .known (.addI (fieldX w))) ∧
  ∀ (x : Reg) (s : State),
    Completes (.addI x) s (fun p => p = .i ∨ p = .pc)
      (fun t => t.machine.i.toNat = (s.machine.i.toNat + (s.machine.reg x).toNat) % 65536 ∧
        t.machine.pc = s.machine.pc + 2)

/-- R125, under a legal configuration; that all 8 bits of `V[x]` count is the spec's decision D10. -/
def Obligations.PointsAtGlyph : Prop :=
  (∀ w, opNibble w = 0xF → fieldNn w = 0x29 → decode w = .known (.ldF (fieldX w))) ∧
  ∀ (x : Reg) (s : State), s.config.wellFormed = true →
    Completes (.ldF x) s (fun p => p = .i ∨ p = .pc)
      (fun t => t.machine.i.toNat = s.config.fontBase + (s.machine.reg x).toNat * 5 ∧ t.machine.i.toNat ≤ 0x6AB ∧
        t.machine.pc = s.machine.pc + 2)

/-! ### ALU -/

/-- R131. -/
def Obligations.CopiesRegister : Prop :=
  (∀ w, opNibble w = 0x8 → fieldN w = 0x0 → decode w = .known (.ldReg (fieldX w) (fieldY w))) ∧
  ∀ (x y : Reg) (s : State),
    Completes (.ldReg x y) s (fun p => p = .reg x ∨ p = .pc)
      (fun t => t.machine.reg x = s.machine.reg y ∧ t.machine.pc = s.machine.pc + 2)

/-- R132, R133, R134, bit by bit; that `VF` is not written is the spec's decision D6. -/
def Obligations.LogicLeavesTheFlag : Prop :=
  (∀ w, opNibble w = 0x8 → fieldN w = 0x1 → decode w = .known (.orReg (fieldX w) (fieldY w))) ∧
  (∀ w, opNibble w = 0x8 → fieldN w = 0x2 → decode w = .known (.andReg (fieldX w) (fieldY w))) ∧
  (∀ w, opNibble w = 0x8 → fieldN w = 0x3 → decode w = .known (.xorReg (fieldX w) (fieldY w))) ∧
  ∀ (x y : Reg) (s : State),
    Completes (.orReg x y) s (fun p => p = .reg x ∨ p = .pc)
      (fun t => (∀ k, (t.machine.reg x).getLsbD k = ((s.machine.reg x).getLsbD k || (s.machine.reg y).getLsbD k)) ∧
        t.machine.pc = s.machine.pc + 2) ∧
    Completes (.andReg x y) s (fun p => p = .reg x ∨ p = .pc)
      (fun t => (∀ k, (t.machine.reg x).getLsbD k = ((s.machine.reg x).getLsbD k && (s.machine.reg y).getLsbD k)) ∧
        t.machine.pc = s.machine.pc + 2) ∧
    Completes (.xorReg x y) s (fun p => p = .reg x ∨ p = .pc)
      (fun t => (∀ k, (t.machine.reg x).getLsbD k = ((s.machine.reg x).getLsbD k ^^ (s.machine.reg y).getLsbD k)) ∧
        t.machine.pc = s.machine.pc + 2)

/-- R135: the carry is what remains in `VF`, also for `x = 15` (the order of R130, the spec's decision D5). -/
def Obligations.AdditionSetsCarry : Prop :=
  (∀ w, opNibble w = 0x8 → fieldN w = 0x4 → decode w = .known (.addReg (fieldX w) (fieldY w))) ∧
  ∀ (x y : Reg) (s : State),
    Completes (.addReg x y) s (fun p => p = .reg x ∨ p = .reg 15 ∨ p = .pc)
      (fun t =>
        (x ≠ 15 → (t.machine.reg x).toNat = ((s.machine.reg x).toNat + (s.machine.reg y).toNat) % 256) ∧
        t.machine.reg 15 = (if (s.machine.reg x).toNat + (s.machine.reg y).toNat > 255 then 1 else 0) ∧
        t.machine.pc = s.machine.pc + 2)

/-- R136 and R138: `VF` is 1 iff there is no borrow. -/
def Obligations.SubtractionsSetNoBorrow : Prop :=
  (∀ w, opNibble w = 0x8 → fieldN w = 0x5 → decode w = .known (.subReg (fieldX w) (fieldY w))) ∧
  (∀ w, opNibble w = 0x8 → fieldN w = 0x7 → decode w = .known (.subn (fieldX w) (fieldY w))) ∧
  ∀ (x y : Reg) (s : State),
    Completes (.subReg x y) s (fun p => p = .reg x ∨ p = .reg 15 ∨ p = .pc)
      (fun t =>
        (x ≠ 15 → (t.machine.reg x).toNat = ((s.machine.reg x).toNat + 256 - (s.machine.reg y).toNat) % 256) ∧
        t.machine.reg 15 = (if (s.machine.reg x).toNat ≥ (s.machine.reg y).toNat then 1 else 0) ∧
        t.machine.pc = s.machine.pc + 2) ∧
    Completes (.subn x y) s (fun p => p = .reg x ∨ p = .reg 15 ∨ p = .pc)
      (fun t =>
        (x ≠ 15 → (t.machine.reg x).toNat = ((s.machine.reg y).toNat + 256 - (s.machine.reg x).toNat) % 256) ∧
        t.machine.reg 15 = (if (s.machine.reg y).toNat ≥ (s.machine.reg x).toNat then 1 else 0) ∧
        t.machine.pc = s.machine.pc + 2)

/-- R137 and R139 with the laws of R140; which register is shifted is the spec's decision D4, a field of the
configuration. -/
def Obligations.ShiftsSetTheBitShiftedOut : Prop :=
  (∀ w, opNibble w = 0x8 → fieldN w = 0x6 → decode w = .known (.shr (fieldX w) (fieldY w))) ∧
  (∀ w, opNibble w = 0x8 → fieldN w = 0xE → decode w = .known (.shl (fieldX w) (fieldY w))) ∧
  ∀ (x y : Reg) (s : State) (a : Byte), a = s.machine.reg (if s.config.shiftUsesVy = true then y else x) →
    Completes (.shr x y) s (fun p => p = .reg x ∨ p = .reg 15 ∨ p = .pc)
      (fun t => (x ≠ 15 → (t.machine.reg x).toNat = a.toNat / 2) ∧
        (t.machine.reg 15).toNat = a.toNat % 2 ∧ t.machine.pc = s.machine.pc + 2) ∧
    Completes (.shl x y) s (fun p => p = .reg x ∨ p = .reg 15 ∨ p = .pc)
      (fun t => (x ≠ 15 → (t.machine.reg x).toNat = 2 * a.toNat % 256) ∧
        (t.machine.reg 15).toNat = a.toNat / 128 ∧ t.machine.pc = s.machine.pc + 2)

/-! ### Memory transfer -/

/-- R141, with the spec's decisions D7 (`I` stays) and D8 (the range check): the bytes stored to are `I` to `I + x`; a
range that leaves memory raises and stores nothing. -/
def Obligations.StoresRegisterBlock : Prop :=
  (∀ w, opNibble w = 0xF → fieldNn w = 0x55 → decode w = .known (.storeRegs (fieldX w))) ∧
  ∀ (x : Reg) (s : State),
    (s.machine.i.toNat + x.val ≤ 4095 →
      Completes (.storeRegs x) s
        (fun p => p = .pc ∨ ∃ a, p = .byte a ∧ s.machine.i.toNat ≤ a ∧ a ≤ s.machine.i.toNat + x.val)
        (fun t => (∀ r, r ≤ x → t.readByte (s.machine.i.toNat + r.val) = s.machine.reg r) ∧
          t.machine.pc = s.machine.pc + 2)) ∧
    (s.machine.i.toNat + x.val > 4095 → Raises (.storeRegs x) s .memoryOutOfBounds s.machine.i)

/-- R142, with the spec's decisions D7 and D8: no byte of memory changes; registers above `x` keep their value. -/
def Obligations.LoadsRegisterBlock : Prop :=
  (∀ w, opNibble w = 0xF → fieldNn w = 0x65 → decode w = .known (.loadRegs (fieldX w))) ∧
  ∀ (x : Reg) (s : State),
    (s.machine.i.toNat + x.val ≤ 4095 →
      Completes (.loadRegs x) s (fun p => p = .pc ∨ ∃ r, p = .reg r ∧ r ≤ x)
        (fun t => (∀ r, r ≤ x → t.machine.reg r = s.readByte (s.machine.i.toNat + r.val)) ∧
          t.machine.pc = s.machine.pc + 2)) ∧
    (s.machine.i.toNat + x.val > 4095 → Raises (.loadRegs x) s .memoryOutOfBounds s.machine.i)

/-- R143, with the spec's decisions D7 and D8: hundreds, tens and units at `I`, `I + 1`, `I + 2`. -/
def Obligations.StoresDecimalDigits : Prop :=
  (∀ w, opNibble w = 0xF → fieldNn w = 0x33 → decode w = .known (.ldB (fieldX w))) ∧
  ∀ (x : Reg) (s : State),
    (s.machine.i.toNat + 2 ≤ 4095 →
      Completes (.ldB x) s
        (fun p => p = .pc ∨ ∃ a, p = .byte a ∧ s.machine.i.toNat ≤ a ∧ a ≤ s.machine.i.toNat + 2)
        (fun t => (t.readByte s.machine.i.toNat).toNat = (s.machine.reg x).toNat / 100 ∧
          (t.readByte (s.machine.i.toNat + 1)).toNat = (s.machine.reg x).toNat / 10 % 10 ∧
          (t.readByte (s.machine.i.toNat + 2)).toNat = (s.machine.reg x).toNat % 10 ∧
          t.machine.pc = s.machine.pc + 2)) ∧
    (s.machine.i.toNat + 2 > 4095 → Raises (.ldB x) s .memoryOutOfBounds s.machine.i)

/-- A block stored and loaded again brings back every register. -/
def Obligations.LoadUndoesStore : Prop :=
  ∀ (x : Reg) (s : State), s.machine.i.toNat + x.val ≤ 4095 →
    ∃ t u, exec (.storeRegs x) s = .next t ∧ exec (.loadRegs x) t = .next u ∧
      ∀ r, u.machine.reg r = s.machine.reg r

/-- 20_memory.md R59: a store is seen by the next fetch. `FX55` over the next instruction's bytes makes the next cycle
fetch `V[0]` and `V[1]`. -/
def Obligations.StoresAreFetched : Prop :=
  ∀ (x : Reg) (s : State), 1 ≤ x.val → s.machine.i.toNat + x.val ≤ 4095 →
    s.machine.i.toNat = s.machine.pc.toNat + 2 →
    ∃ t, exec (.storeRegs x) s = .next t ∧
      t.fetch = some (wordOfBytes (s.machine.reg 0) (s.machine.reg 1))

/-! ### Timers -/

/-- R150, R151, R152. That `FX07` reads the timer and `FX15` writes it is the spec's own reading (93 G2). -/
def Obligations.TimerAccessCopies : Prop :=
  (∀ w, opNibble w = 0xF → fieldNn w = 0x07 → decode w = .known (.ldVxDt (fieldX w))) ∧
  (∀ w, opNibble w = 0xF → fieldNn w = 0x15 → decode w = .known (.ldDtVx (fieldX w))) ∧
  (∀ w, opNibble w = 0xF → fieldNn w = 0x18 → decode w = .known (.ldStVx (fieldX w))) ∧
  ∀ (x : Reg) (s : State),
    Completes (.ldVxDt x) s (fun p => p = .reg x ∨ p = .pc)
      (fun t => t.machine.reg x = s.machine.dt ∧ t.machine.pc = s.machine.pc + 2) ∧
    Completes (.ldDtVx x) s (fun p => p = .dt ∨ p = .pc)
      (fun t => t.machine.dt = s.machine.reg x ∧ t.machine.pc = s.machine.pc + 2) ∧
    Completes (.ldStVx x) s (fun p => p = .st ∨ p = .pc)
      (fun t => t.machine.st = s.machine.reg x ∧ t.machine.pc = s.machine.pc + 2)

/-! ### Display -/

/-- R160. -/
def Obligations.ClearsScreen : Prop :=
  decode 0x00E0 = .known .cls ∧
  ∀ s : State, Completes .cls s (fun p => p = .pc ∨ ∃ x y, p = .pixel x y)
    (fun t => (∀ x y, t.machine.screen.pixel x y = false) ∧ t.machine.pc = s.machine.pc + 2)

/-- R162, with the spec's decisions D8 (the range check), D12 (bit and row order) and D13 (the origin is not reduced):
each pixel on the screen is XORed with the sprite's bit there, `VF` tells whether one went from on to off. -/
def Obligations.DrawXorsSprite : Prop :=
  (∀ w, opNibble w = 0xD → decode w = .known (.drw (fieldX w) (fieldY w) (fieldN w))) ∧
  ∀ (x y : Reg) (n : Height) (s : State) (x0 y0 : Nat),
    x0 = (s.machine.reg x).toNat → y0 = (s.machine.reg y).toNat →
    (n.val = 0 ∨ s.machine.i.toNat + n.val - 1 ≤ 4095 →
      Completes (.drw x y n) s (fun p => p = .pc ∨ p = .reg 15 ∨ ∃ px py, p = .pixel px py)
        (fun t =>
          (∀ px py, px ≤ 63 → py ≤ 31 →
            t.machine.screen.pixel px py = (s.machine.screen.pixel px py ^^ s.spriteBit x0 y0 n.val px py)) ∧
          ((∃ px py, px ≤ 63 ∧ py ≤ 31 ∧ s.machine.screen.pixel px py = true ∧
            s.spriteBit x0 y0 n.val px py = true) → t.machine.reg 15 = 1) ∧
          ((∀ px py, px ≤ 63 → py ≤ 31 → s.machine.screen.pixel px py = true →
            s.spriteBit x0 y0 n.val px py = false) → t.machine.reg 15 = 0) ∧
          t.machine.pc = s.machine.pc + 2)) ∧
    (n.val ≥ 1 ∧ s.machine.i.toNat + n.val - 1 > 4095 → Raises (.drw x y n) s .memoryOutOfBounds s.machine.i)

/-- CH8's draw law (95 S5) for every screen: drawing the same sprite twice at the same place restores the screen, and
the second draw collides if the sprite has a bit on the screen where the screen was empty. -/
def Obligations.DrawTwiceRestores : Prop :=
  ∀ (x y : Reg) (n : Height) (s : State), x ≠ 15 → y ≠ 15 →
    (n.val = 0 ∨ s.machine.i.toNat + n.val - 1 ≤ 4095) →
    ∃ t u, exec (.drw x y n) s = .next t ∧ exec (.drw x y n) t = .next u ∧
      u.machine.screen = s.machine.screen ∧
      ((∃ px py, px ≤ 63 ∧ py ≤ 31 ∧ s.machine.screen.pixel px py = false ∧
        s.spriteBit (s.machine.reg x).toNat (s.machine.reg y).toNat n.val px py = true) → u.machine.reg 15 = 1)

/-! ### The host -/

/-- R226: key events write one key, also while paused; that a halted core ignores them is the spec's decision D18. -/
def Obligations.KeyEventsWriteOneKey : Prop :=
  ∀ (s s' : State) (k : Key),
    (s.hostTurn (.keyDown k) s' → s'.fault = none → ∃ t, step s = .next t ∧ t.machine.keyDown k = true ∧
      OnlyChanges s' t (fun p => p = .key k)) ∧
    (s.hostTurn (.keyUp k) s' → s'.fault = none → ∃ t, step s = .next t ∧ t.machine.keyDown k = false ∧
      OnlyChanges s' t (fun p => p = .key k)) ∧
    (s.hostTurn (.keyDown k) s' ∨ s.hostTurn (.keyUp k) s' → s'.fault ≠ none → step s = .next s')

/-- R228 and R229, in every state of the core; that pause acts between any two steps is the spec's decision D34. -/
def Obligations.PauseAndCancelSetTheirFlag : Prop :=
  ∀ (s s' : State),
    (∀ b, s.hostTurn (.setPause b) s' → step s = .next { s' with paused := b }) ∧
    (s.hostTurn .cancel s' → step s = .next { s' with cancelled := true })

/-- R230: the export gives a copy of `MachineState` and the identity and changes nothing, in every state of the core. -/
def Obligations.ExportIsInert : Prop :=
  ∀ s s' : State, s.hostTurn .snapshotExport s' →
    step s = .next s' ∧ HostEvent.reply .snapshotExport s' = .snapshot ⟨s.machine, s.progId⟩

/-- R231, for a snapshot of the shape of R41: adopted if the identity matches, which also clears the latch (the spec's
decision D22), otherwise nothing changes; loading it twice is loading it once. -/
def Obligations.SnapshotLoadNeedsIdentity : Prop :=
  ∀ (s s' : State) (snap : Snapshot), s.hostTurn (.snapshotLoad snap) s' →
    Memory.wf s.config snap.machine.memory = true →
    (snap.progId = s.progId → step s = .next { s' with machine := snap.machine, fault := none } ∧
      HostEvent.reply (.snapshotLoad snap) s' = .adopted true) ∧
    (snap.progId ≠ s.progId → step s = .next s' ∧ HostEvent.reply (.snapshotLoad snap) s' = .adopted false) ∧
    (s'.snapshotLoad snap).snapshotLoad snap = s'.snapshotLoad snap

/-- CH8's round trip (95 S2): a snapshot of a state that a run can reach, loaded into the machine freshly reset with
the same program, gives that state's `MachineState` again. -/
def Obligations.SnapshotRoundTrips : Prop :=
  ∀ (s : State) (bytes : List Byte), s.Inv →
    ∃ u, hostStep (.snapshotLoad s.snapshotExport) (s.programLoad bytes s.progId) = .next u ∧
      u.machine = s.machine ∧ u.progId = s.progId ∧ u.fault = none

/-- R250 under R251's conditions, which are the spec's decision D21, with the reset values of R39: the state after a
program load. The configuration and the model's own fields are carried along (log entry 9). -/
def Obligations.ProgramLoadResets : Prop :=
  ∀ (s s' : State) (bytes : List Byte) (id : ProgramId), s.hostTurn (.programLoad bytes id) s' →
    bytes.length ≤ 3584 → s.config.fontBase + 80 ≤ 0x200 →
    ∃ t, step s = .next t ∧
      (∀ k b, bytes[k]? = some b → t.readByte (0x200 + k) = b) ∧
      (∀ k (h : k < 80), t.readByte (s.config.fontBase + k) = s.config.fontData[k]) ∧
      (∀ a, a < 4096 → (a < s.config.fontBase ∨ s.config.fontBase + 80 ≤ a) → (a < 0x200 ∨ 0x200 + bytes.length ≤ a) →
        t.readByte a = 0) ∧
      (∀ r, t.machine.reg r = 0) ∧ t.machine.i = 0 ∧ t.machine.pc = 0x200 ∧
      (∀ k : Fin 16, t.machine.stack[k] = 0) ∧ t.machine.sp = 0 ∧ t.machine.dt = 0 ∧ t.machine.st = 0 ∧
      (∀ x y, t.machine.screen.pixel x y = false) ∧ (∀ k, t.machine.keyDown k = false) ∧ t.machine.pending = none ∧
      t.fault = none ∧ t.paused = false ∧ t.cancelled = false ∧ t.cycleInFrame = 0 ∧ t.progId = id ∧
      (∀ x y, t.screenOut.pixel x y = false) ∧ t.soundOut = 0 ∧ t.stateOut = t.machine ∧ t.config = s.config

/-- R251: a program that does not fit, or a font over the program area, is refused (the spec's decision D21). -/
def Obligations.UnfitProgramIsRefused : Prop :=
  ∀ (s s' : State) (bytes : List Byte) (id : ProgramId), s.hostTurn (.programLoad bytes id) s' →
    bytes.length > 3584 ∨ s.config.fontBase + 80 > 0x200 → step s = .refused .programLoadRefused
end

