-- ==== Sys2Proof/Laws/Decode.lean ====
section
/-! SUPPORT. The fields of a word as numbers, and the fields of the words the encoder's formats build. -/

namespace Sys2Proof

/-! ### Fields as numbers -/

theorem opNibble_toNat (w : Word) : (opNibble w).toNat = w.toNat / 4096 % 16 := by
  simp [opNibble, BitVec.extractLsb'_toNat, Nat.shiftRight_eq_div_pow]

theorem fieldX_val (w : Word) : (fieldX w).val = w.toNat / 256 % 16 := by
  simp [fieldX, Nat.shiftRight_eq_div_pow]

theorem fieldY_val (w : Word) : (fieldY w).val = w.toNat / 16 % 16 := by
  simp [fieldY, Nat.shiftRight_eq_div_pow]

theorem fieldN_val (w : Word) : (fieldN w).val = w.toNat % 16 := by
  simp [fieldN]

theorem fieldNn_toNat (w : Word) : (fieldNn w).toNat = w.toNat % 256 := by
  simp [fieldNn, BitVec.extractLsb'_toNat]

theorem fieldNnn_toNat (w : Word) : (fieldNnn w).toNat = w.toNat % 4096 := by
  simp [fieldNnn, BitVec.extractLsb'_toNat]

theorem highByte_toNat (w : Word) : (highByte w).toNat = w.toNat / 256 := by
  have := w.isLt
  simp [highByte, BitVec.extractLsb'_toNat, Nat.shiftRight_eq_div_pow]
  omega

theorem lowByte_toNat (w : Word) : (lowByte w).toNat = w.toNat % 256 := by
  simp [lowByte, BitVec.extractLsb'_toNat]

theorem wordOfBytes_toNat (hi lo : Byte) : (wordOfBytes hi lo).toNat = hi.toNat * 256 + lo.toNat := by
  have := hi.isLt; have := lo.isLt
  simp [wordOfBytes]
  omega

/-- Splitting a word into its two bytes and joining them gives the word back. -/
@[simp] theorem wordOfBytes_highByte_lowByte (w : Word) : wordOfBytes (highByte w) (lowByte w) = w := by
  apply BitVec.eq_of_toNat_eq
  rw [wordOfBytes_toNat, highByte_toNat, lowByte_toNat]
  omega

/-! ### The formats as numbers -/

theorem formatA_toNat (op : Nat) (nnn : Nnn) (h : op < 16) : (formatA op nnn).toNat = op * 4096 + nnn.toNat := by
  have := nnn.isLt
  simp [formatA]
  omega

theorem formatXI_toNat (op : Nat) (x : Reg) (nn : Byte) (h : op < 16) :
    (formatXI op x nn).toNat = op * 4096 + x.val * 256 + nn.toNat := by
  have := nn.isLt; have := x.isLt
  simp [formatXI]
  omega

theorem formatXY_toNat (op : Nat) (x y : Reg) (sub : Nat) (h : op < 16) (hs : sub < 16) :
    (formatXY op x y sub).toNat = op * 4096 + x.val * 256 + y.val * 16 + sub := by
  have := x.isLt; have := y.isLt
  simp [formatXY, nibbles]
  omega

theorem formatXF_toNat (op : Nat) (x : Reg) (low : Nat) (h : op < 16) (hl : low < 256) :
    (formatXF op x low).toNat = op * 4096 + x.val * 256 + low := by
  have := x.isLt
  simp [formatXF]
  omega

/-! ### The fields of the formats -/

theorem fields_formatA (op : Nat) (nnn : Nnn) (h : op < 16) :
    (opNibble (formatA op nnn)).toNat = op ∧ fieldNnn (formatA op nnn) = nnn := by
  have := nnn.isLt
  refine ⟨?_, BitVec.eq_of_toNat_eq ?_⟩
  · rw [opNibble_toNat, formatA_toNat op nnn h]; omega
  · rw [fieldNnn_toNat, formatA_toNat op nnn h]; omega

theorem fields_formatXI (op : Nat) (x : Reg) (nn : Byte) (h : op < 16) :
    (opNibble (formatXI op x nn)).toNat = op ∧ fieldX (formatXI op x nn) = x ∧ fieldNn (formatXI op x nn) = nn := by
  have := nn.isLt; have := x.isLt
  refine ⟨?_, Fin.ext ?_, BitVec.eq_of_toNat_eq ?_⟩
  · rw [opNibble_toNat, formatXI_toNat op x nn h]; omega
  · rw [fieldX_val, formatXI_toNat op x nn h]; omega
  · rw [fieldNn_toNat, formatXI_toNat op x nn h]; omega

theorem fields_formatXY (op : Nat) (x y : Reg) (sub : Nat) (h : op < 16) (hs : sub < 16) :
    (opNibble (formatXY op x y sub)).toNat = op ∧ fieldX (formatXY op x y sub) = x ∧
      fieldY (formatXY op x y sub) = y ∧ (fieldN (formatXY op x y sub)).val = sub := by
  have := y.isLt; have := x.isLt
  refine ⟨?_, Fin.ext ?_, Fin.ext ?_, ?_⟩
  · rw [opNibble_toNat, formatXY_toNat op x y sub h hs]; omega
  · rw [fieldX_val, formatXY_toNat op x y sub h hs]; omega
  · rw [fieldY_val, formatXY_toNat op x y sub h hs]; omega
  · rw [fieldN_val, formatXY_toNat op x y sub h hs]; omega

theorem fields_formatXF (op : Nat) (x : Reg) (low : Nat) (h : op < 16) (hl : low < 256) :
    (opNibble (formatXF op x low)).toNat = op ∧ fieldX (formatXF op x low) = x ∧
      (fieldNn (formatXF op x low)).toNat = low := by
  have := x.isLt
  refine ⟨?_, Fin.ext ?_, ?_⟩
  · rw [opNibble_toNat, formatXF_toNat op x low h hl]; omega
  · rw [fieldX_val, formatXF_toNat op x low h hl]; omega
  · rw [fieldNn_toNat, formatXF_toNat op x low h hl]; omega

/-! ### A word from its fields -/

theorem word_toNat_nibbles (w : Word) :
    w.toNat = (opNibble w).toNat * 4096 + (fieldX w).val * 256 + (fieldY w).val * 16 + (fieldN w).val := by
  have hw := w.isLt
  have h2 : w.toNat / 256 = w.toNat / 16 / 16 := by rw [Nat.div_div_eq_div_mul]
  have h3 : w.toNat / 4096 = w.toNat / 16 / 16 / 16 := by simp [Nat.div_div_eq_div_mul]
  rw [opNibble_toNat, fieldX_val, fieldY_val, fieldN_val, h2, h3]
  omega

theorem fieldNn_toNat_nibbles (w : Word) : (fieldNn w).toNat = (fieldY w).val * 16 + (fieldN w).val := by
  rw [fieldNn_toNat, fieldY_val, fieldN_val]
  omega

theorem fieldNnn_toNat_nibbles (w : Word) :
    (fieldNnn w).toNat = (fieldX w).val * 256 + (fieldY w).val * 16 + (fieldN w).val := by
  have h2 : w.toNat / 256 = w.toNat / 16 / 16 := by rw [Nat.div_div_eq_div_mul]
  rw [fieldNnn_toNat, fieldX_val, fieldY_val, fieldN_val, h2]
  omega

/-! ### A word and its nibbles -/

/-- Nibble `k` of a word, 0 the lowest. -/
def nibble (w : Word) (k : Nat) : BitVec 4 := w.extractLsb' (4 * k) 4

theorem nibble_and (w v : Word) (k : Nat) : nibble (w &&& v) k = nibble w k &&& nibble v k := by
  simp [nibble, BitVec.extractLsb'_and]

theorem nibble_toNat (w : Word) (k : Nat) : (nibble w k).toNat = w.toNat / 2 ^ (4 * k) % 16 := by
  simp [nibble, BitVec.extractLsb'_toNat, Nat.shiftRight_eq_div_pow]

/-- Two words are equal when their four nibbles are. -/
theorem word_ext (w v : Word) (h : ∀ k < 4, nibble w k = nibble v k) : w = v := by
  apply BitVec.eq_of_toNat_eq
  have hn : ∀ k < 4, w.toNat / 2 ^ (4 * k) % 16 = v.toNat / 2 ^ (4 * k) % 16 := fun k hk => by
    rw [← nibble_toNat, ← nibble_toNat, h k hk]
  have h0 := hn 0 (by omega); have h1 := hn 1 (by omega); have h2 := hn 2 (by omega); have h3 := hn 3 (by omega)
  have := w.isLt; have := v.isLt
  norm_num at h0 h1 h2 h3
  omega

/-- A row selects a word nibble by nibble. -/
theorem OpcodeRow.selects_iff (r : OpcodeRow) (w : Word) :
    r.selects w = true ↔ ∀ k < 4, nibble w k &&& nibble r.mask k = nibble r.pattern k := by
  simp only [OpcodeRow.selects, decide_eq_true_eq]
  constructor
  · intro h k _; rw [← nibble_and, h]
  · intro h; exact word_ext _ _ fun k hk => by rw [nibble_and, h k hk]

theorem forall_lt_four (p : Nat → Prop) : (∀ k < 4, p k) ↔ p 0 ∧ p 1 ∧ p 2 ∧ p 3 :=
  ⟨fun h => ⟨h 0 (by omega), h 1 (by omega), h 2 (by omega), h 3 (by omega)⟩, fun ⟨h0, h1, h2, h3⟩ k hk => by
    match k, hk with
    | 0, _ => exact h0
    | 1, _ => exact h1
    | 2, _ => exact h2
    | 3, _ => exact h3⟩

/-! ### The nibbles of the formats -/

theorem nibble_formatA (op : Nat) (nnn : Nnn) (h : op < 16) : nibble (formatA op nnn) 3 = BitVec.ofNat 4 op := by
  apply BitVec.eq_of_toNat_eq
  have := nnn.isLt
  rw [nibble_toNat, formatA_toNat op nnn h]
  simp
  omega

theorem nibble_formatXI (op : Nat) (x : Reg) (nn : Byte) (h : op < 16) :
    nibble (formatXI op x nn) 3 = BitVec.ofNat 4 op := by
  apply BitVec.eq_of_toNat_eq
  have := nn.isLt; have := x.isLt
  rw [nibble_toNat, formatXI_toNat op x nn h]
  simp
  omega

theorem nibble_formatXY (op : Nat) (x y : Reg) (sub : Nat) (h : op < 16) (hs : sub < 16) :
    nibble (formatXY op x y sub) 3 = BitVec.ofNat 4 op ∧ nibble (formatXY op x y sub) 0 = BitVec.ofNat 4 sub := by
  have := x.isLt; have := y.isLt
  constructor <;> apply BitVec.eq_of_toNat_eq <;> rw [nibble_toNat, formatXY_toNat op x y sub h hs] <;> simp <;> omega

theorem nibble_formatXF (op : Nat) (x : Reg) (low : Nat) (h : op < 16) (hl : low < 256) :
    nibble (formatXF op x low) 3 = BitVec.ofNat 4 op ∧ nibble (formatXF op x low) 1 = BitVec.ofNat 4 (low / 16) ∧
      nibble (formatXF op x low) 0 = BitVec.ofNat 4 low := by
  have := x.isLt
  refine ⟨?_, ?_, ?_⟩ <;> apply BitVec.eq_of_toNat_eq <;> rw [nibble_toNat, formatXF_toNat op x low h hl] <;> simp <;>
    omega

/-! ### Which words a row selects, by the shape of its mask -/

/-- A row of formats `A`, `XI`, `XYN` selects by the high nibble. -/
theorem OpcodeRow.selects_high (r : OpcodeRow) (w : Word) (p : BitVec 4) (hm : r.mask = 0xF000)
    (hp : ∀ k < 4, nibble r.pattern k = if k = 3 then p else 0) : r.selects w = true ↔ nibble w 3 = p := by
  rw [OpcodeRow.selects_iff, forall_lt_four, hm, hp 0 (by omega), hp 1 (by omega), hp 2 (by omega), hp 3 (by omega)]
  have e0 : nibble 0xF000 0 = 0 := by decide
  have e1 : nibble 0xF000 1 = 0 := by decide
  have e2 : nibble 0xF000 2 = 0 := by decide
  have e3 : nibble 0xF000 3 = BitVec.allOnes 4 := by decide
  rw [e0, e1, e2, e3]
  simp [-BitVec.reduceAllOnes]

/-- A row of format `XY` selects by the high and the low nibble. -/
theorem OpcodeRow.selects_highLow (r : OpcodeRow) (w : Word) (p q : BitVec 4) (hm : r.mask = 0xF00F)
    (hp : ∀ k < 4, nibble r.pattern k = if k = 3 then p else if k = 0 then q else 0) :
    r.selects w = true ↔ nibble w 3 = p ∧ nibble w 0 = q := by
  rw [OpcodeRow.selects_iff, forall_lt_four, hm, hp 0 (by omega), hp 1 (by omega), hp 2 (by omega), hp 3 (by omega)]
  have e0 : nibble 0xF00F 0 = BitVec.allOnes 4 := by decide
  have e1 : nibble 0xF00F 1 = 0 := by decide
  have e2 : nibble 0xF00F 2 = 0 := by decide
  have e3 : nibble 0xF00F 3 = BitVec.allOnes 4 := by decide
  rw [e0, e1, e2, e3]
  simp [-BitVec.reduceAllOnes, and_comm]

/-- A row of format `XF` selects by all nibbles but that of `x`. -/
theorem OpcodeRow.selects_highByte (r : OpcodeRow) (w : Word) (p q t : BitVec 4) (hm : r.mask = 0xF0FF)
    (hp : ∀ k < 4, nibble r.pattern k = if k = 3 then p else if k = 1 then q else if k = 0 then t else 0) :
    r.selects w = true ↔ nibble w 3 = p ∧ nibble w 1 = q ∧ nibble w 0 = t := by
  rw [OpcodeRow.selects_iff, forall_lt_four, hm, hp 0 (by omega), hp 1 (by omega), hp 2 (by omega), hp 3 (by omega)]
  have e0 : nibble 0xF0FF 0 = BitVec.allOnes 4 := by decide
  have e1 : nibble 0xF0FF 1 = BitVec.allOnes 4 := by decide
  have e2 : nibble 0xF0FF 2 = 0 := by decide
  have e3 : nibble 0xF0FF 3 = BitVec.allOnes 4 := by decide
  rw [e0, e1, e2, e3]
  simp [-BitVec.reduceAllOnes]
  tauto

/-! ### The decoder, past its two equality tests -/

theorem decode_of_opNibble_ne_zero (w : Word) (h : opNibble w ≠ 0) : decode w = decodeFamily w := by
  have h1 : w ≠ 0x00E0#16 := by rintro rfl; exact h (by decide)
  have h2 : w ≠ 0x00EE#16 := by rintro rfl; exact h (by decide)
  simp [decode, h1, h2]

/-- The decoder on a word of a given nonzero high nibble. -/
theorem decode_of_opNibble_toNat (w : Word) (op : Nat) (h : (opNibble w).toNat = op) (h0 : op ≠ 0) :
    decode w = decodeFamily w :=
  decode_of_opNibble_ne_zero w fun e => h0 (by rw [← h, e]; rfl)

end Sys2Proof
end

