-- ==== Sys2Proof/Laws/Memory.lean ====
section
/-! SUPPORT. Memory: a read after a write, and the canonical form, which every memory operation keeps. -/

namespace Sys2Proof.Machine

variable (c : Config)

/-! ### Reads after one write -/

@[simp] theorem Memory.read_nil (a : Nat) : Memory.read c [] a = resetByte c a := rfl

@[simp] theorem Memory.read_cons (k : Nat) (v : Byte) (m : Memory) (a : Nat) :
    Memory.read c ((k, v) :: m) a = if k = a then v else Memory.read c m a := rfl

theorem Memory.read_put (m : Memory) (a b : Nat) (v : Byte) :
    Memory.read c (Memory.put m a v) b = if a = b then v else Memory.read c m b := by
  induction m with
  | nil => simp [Memory.put]
  | cons cell rest ih =>
    obtain ⟨k, w⟩ := cell
    simp only [Memory.put]
    split
    · simp
    · split
      · subst a; simp; split <;> simp_all
      · simp only [Memory.read_cons, ih]; split <;> simp_all

theorem Memory.read_drop (m : Memory) (a b : Nat) :
    Memory.read c (Memory.drop m a) b = if a = b then resetByte c b else Memory.read c m b := by
  induction m with
  | nil => simp [Memory.drop]
  | cons cell rest ih =>
    obtain ⟨k, w⟩ := cell
    simp only [Memory.drop] at ih ⊢
    by_cases h : k = a
    · subst h
      simp only [ne_eq, not_true_eq_false, decide_false, Bool.false_eq_true, not_false_eq_true,
        List.filter_cons_of_neg, Memory.read_cons, ih]
      split <;> rfl
    · simp only [ne_eq, h, not_false_eq_true, decide_true, List.filter_cons_of_pos, Memory.read_cons, ih]
      by_cases hb : k = b
      · rw [if_pos hb, if_pos hb, if_neg fun e => h (hb.trans e.symm)]
      · rw [if_neg hb, if_neg hb]

/-- A read after a write: the value written at that address, everything else as before. -/
theorem Memory.read_write (m : Memory) (a b : Nat) (v : Byte) (h : a < memorySize) :
    Memory.read c (Memory.write c m a v) b = if a = b then v else Memory.read c m b := by
  unfold Memory.write
  rw [if_pos h]
  split
  · rename_i hv; rw [Memory.read_drop]; split <;> simp_all
  · exact Memory.read_put c m a b v

theorem Memory.read_write_other (m : Memory) (a b : Nat) (v : Byte) (hb : a ≠ b) :
    Memory.read c (Memory.write c m a v) b = Memory.read c m b := by
  by_cases h : a < memorySize
  · rw [Memory.read_write c m a b v h, if_neg hb]
  · simp [Memory.write, h]

/-! ### Reads after a block of writes -/

/-- A block write leaves every address outside the block alone. -/
theorem Memory.read_writeList_outside (bytes : List Byte) (m : Memory) (a b : Nat)
    (h : b < a ∨ a + bytes.length ≤ b) : Memory.read c (Memory.writeList c m a bytes) b = Memory.read c m b := by
  induction bytes generalizing m a with
  | nil => rfl
  | cons v rest ih =>
    simp only [List.length_cons] at h
    rw [Memory.writeList, ih _ _ (by omega), Memory.read_write_other c m a b v (by omega)]

/-- A block write within memory puts the `k`-th byte at `a + k`. -/
theorem Memory.read_writeList_inside (bytes : List Byte) (m : Memory) (a k : Nat) (hk : k < bytes.length)
    (h : a + bytes.length ≤ memorySize) : Memory.read c (Memory.writeList c m a bytes) (a + k) = bytes[k] := by
  induction bytes generalizing m a k with
  | nil => simp at hk
  | cons v rest ih =>
    simp only [List.length_cons] at h hk
    rw [Memory.writeList]
    cases k with
    | zero =>
      rw [Memory.read_writeList_outside c rest _ _ _ (by omega), Nat.add_zero, Memory.read_write c m a a v (by omega),
        if_pos rfl]
      rfl
    | succ j =>
      have := ih (Memory.write c m a v) (a + 1) j (by omega) (by omega)
      rw [show a + (j + 1) = a + 1 + j by omega, this]
      rfl

@[simp] theorem Memory.length_readList (m : Memory) (a n : Nat) : (Memory.readList c m a n).length = n := by
  induction n generalizing a with
  | zero => rfl
  | succ n ih => simp [Memory.readList, ih]

/-- The `k`-th byte of a block read is the byte at `a + k`. -/
theorem Memory.getElem?_readList (m : Memory) (a n k : Nat) :
    (Memory.readList c m a n)[k]? = if k < n then some (Memory.read c m (a + k)) else none := by
  induction n generalizing a k with
  | zero => simp [Memory.readList]
  | succ n ih =>
    cases k with
    | zero => simp [Memory.readList]
    | succ j => simp [Memory.readList, ih, Nat.add_assoc, Nat.add_comm 1 j]

/-- A block read depends only on the bytes it reads. -/
theorem Memory.readList_congr (m k : Memory) (a n : Nat)
    (h : ∀ b, a ≤ b → b < a + n → Memory.read c m b = Memory.read c k b) :
    Memory.readList c m a n = Memory.readList c k a n := by
  induction n generalizing a with
  | zero => rfl
  | succ n ih =>
    rw [Memory.readList, Memory.readList, h a (by omega) (by omega), ih (a + 1) fun b _ _ => h b (by omega) (by omega)]

/-! ### The canonical form -/

@[simp] theorem Memory.wf_nil : Memory.wf c [] = true := rfl

theorem Memory.wfFrom_cons (lo k : Nat) (v : Byte) (m : Memory) :
    Memory.wfFrom c lo ((k, v) :: m) = true ↔
      lo ≤ k ∧ k < memorySize ∧ v ≠ resetByte c k ∧ Memory.wfFrom c (k + 1) m = true := by
  simp [Memory.wfFrom, and_assoc]

theorem Memory.wfFrom_mono (m : Memory) (lo hi : Nat) (h : lo ≤ hi) (hm : Memory.wfFrom c hi m = true) :
    Memory.wfFrom c lo m = true := by
  cases m with
  | nil => rfl
  | cons cell rest =>
    rw [Memory.wfFrom_cons] at hm ⊢
    exact ⟨by omega, hm.2⟩

theorem Memory.wfFrom_put (m : Memory) (lo a : Nat) (v : Byte) (hm : Memory.wfFrom c lo m = true) (hlo : lo ≤ a)
    (ha : a < memorySize) (hv : v ≠ resetByte c a) : Memory.wfFrom c lo (Memory.put m a v) = true := by
  induction m generalizing lo with
  | nil => simp [Memory.put, Memory.wfFrom, hlo, ha, hv]
  | cons cell rest ih =>
    obtain ⟨k, w⟩ := cell
    have hc := (Memory.wfFrom_cons c lo k w rest).mp hm
    simp only [Memory.put]
    split
    · rw [Memory.wfFrom_cons]
      exact ⟨hlo, ha, hv, (Memory.wfFrom_cons ..).mpr ⟨by omega, hc.2⟩⟩
    · split
      · subst a; rw [Memory.wfFrom_cons]; exact ⟨hlo, ha, hv, hc.2.2.2⟩
      · rw [Memory.wfFrom_cons]
        exact ⟨hc.1, hc.2.1, hc.2.2.1, ih (k + 1) hc.2.2.2 (by omega)⟩

theorem Memory.wfFrom_drop (m : Memory) (lo a : Nat) (hm : Memory.wfFrom c lo m = true) :
    Memory.wfFrom c lo (Memory.drop m a) = true := by
  induction m generalizing lo with
  | nil => rfl
  | cons cell rest ih =>
    obtain ⟨k, w⟩ := cell
    have hc := (Memory.wfFrom_cons c lo k w rest).mp hm
    simp only [Memory.drop] at ih ⊢
    by_cases h : k = a
    · simp only [h, ne_eq, not_true_eq_false, decide_false, Bool.false_eq_true, not_false_eq_true,
        List.filter_cons_of_neg]
      exact ih lo (Memory.wfFrom_mono c rest lo (k + 1) (by omega) hc.2.2.2)
    · simp only [ne_eq, h, not_false_eq_true, decide_true, List.filter_cons_of_pos]
      exact (Memory.wfFrom_cons ..).mpr ⟨hc.1, hc.2.1, hc.2.2.1, ih (k + 1) hc.2.2.2⟩

/-- A write keeps the canonical form. -/
theorem Memory.wf_write (m : Memory) (a : Nat) (v : Byte) (hm : Memory.wf c m = true) :
    Memory.wf c (Memory.write c m a v) = true := by
  unfold Memory.write Memory.wf at *
  split
  · split
    · exact Memory.wfFrom_drop c m 0 a hm
    · exact Memory.wfFrom_put c m 0 a v hm (Nat.zero_le a) ‹_› ‹_›
  · exact hm

/-- A block write keeps the canonical form. -/
theorem Memory.wf_writeList (bytes : List Byte) (m : Memory) (a : Nat) (hm : Memory.wf c m = true) :
    Memory.wf c (Memory.writeList c m a bytes) = true := by
  induction bytes generalizing m a with
  | nil => exact hm
  | cons v rest ih => exact ih _ _ (Memory.wf_write c m a v hm)

/-- In the canonical form no cell lies below the bound, so the address reads as at reset. -/
theorem Memory.read_of_lt_wfFrom (m : Memory) (lo a : Nat) (hm : Memory.wfFrom c lo m = true) (ha : a < lo) :
    Memory.read c m a = resetByte c a := by
  induction m generalizing lo with
  | nil => rfl
  | cons cell rest ih =>
    obtain ⟨k, w⟩ := cell
    have hc := (Memory.wfFrom_cons c lo k w rest).mp hm
    rw [Memory.read_cons, if_neg (by omega)]
    exact ih (k + 1) hc.2.2.2 (by omega)

end Sys2Proof.Machine
end

