-- ==== Sys2Proof/Laws/State.lean ====
section
/-! SUPPORT. One lemma per field per update of MachineState and State, each true by `rfl`, so that no later proof
unfolds a record update. -/

namespace Sys2Proof.Machine

/-! ### setReg -/

@[simp] theorem MachineState.setReg_memory (m : MachineState) (x : Reg) (b : Byte) : (m.setReg x b).memory = m.memory := rfl
@[simp] theorem MachineState.setReg_v (m : MachineState) (x : Reg) (b : Byte) : (m.setReg x b).v = m.v.set x b := rfl
@[simp] theorem MachineState.setReg_i (m : MachineState) (x : Reg) (b : Byte) : (m.setReg x b).i = m.i := rfl
@[simp] theorem MachineState.setReg_pc (m : MachineState) (x : Reg) (b : Byte) : (m.setReg x b).pc = m.pc := rfl
@[simp] theorem MachineState.setReg_stack (m : MachineState) (x : Reg) (b : Byte) : (m.setReg x b).stack = m.stack := rfl
@[simp] theorem MachineState.setReg_sp (m : MachineState) (x : Reg) (b : Byte) : (m.setReg x b).sp = m.sp := rfl
@[simp] theorem MachineState.setReg_dt (m : MachineState) (x : Reg) (b : Byte) : (m.setReg x b).dt = m.dt := rfl
@[simp] theorem MachineState.setReg_st (m : MachineState) (x : Reg) (b : Byte) : (m.setReg x b).st = m.st := rfl
@[simp] theorem MachineState.setReg_screen (m : MachineState) (x : Reg) (b : Byte) : (m.setReg x b).screen = m.screen := rfl
@[simp] theorem MachineState.setReg_keys (m : MachineState) (x : Reg) (b : Byte) : (m.setReg x b).keys = m.keys := rfl
@[simp] theorem MachineState.setReg_pending (m : MachineState) (x : Reg) (b : Byte) : (m.setReg x b).pending = m.pending := rfl

/-! ### setFlag -/

@[simp] theorem MachineState.setFlag_memory (m : MachineState) (f : Bool) : (m.setFlag f).memory = m.memory := rfl
@[simp] theorem MachineState.setFlag_v (m : MachineState) (f : Bool) : (m.setFlag f).v = m.v.set flagReg (flagByte f) := rfl
@[simp] theorem MachineState.setFlag_i (m : MachineState) (f : Bool) : (m.setFlag f).i = m.i := rfl
@[simp] theorem MachineState.setFlag_pc (m : MachineState) (f : Bool) : (m.setFlag f).pc = m.pc := rfl
@[simp] theorem MachineState.setFlag_stack (m : MachineState) (f : Bool) : (m.setFlag f).stack = m.stack := rfl
@[simp] theorem MachineState.setFlag_sp (m : MachineState) (f : Bool) : (m.setFlag f).sp = m.sp := rfl
@[simp] theorem MachineState.setFlag_dt (m : MachineState) (f : Bool) : (m.setFlag f).dt = m.dt := rfl
@[simp] theorem MachineState.setFlag_st (m : MachineState) (f : Bool) : (m.setFlag f).st = m.st := rfl
@[simp] theorem MachineState.setFlag_screen (m : MachineState) (f : Bool) : (m.setFlag f).screen = m.screen := rfl
@[simp] theorem MachineState.setFlag_keys (m : MachineState) (f : Bool) : (m.setFlag f).keys = m.keys := rfl
@[simp] theorem MachineState.setFlag_pending (m : MachineState) (f : Bool) : (m.setFlag f).pending = m.pending := rfl

/-! ### setRegs -/

@[simp] theorem MachineState.setRegs_memory (m : MachineState) (bytes : List Byte) : (m.setRegs bytes).memory = m.memory := by
  simp only [MachineState.setRegs]
@[simp] theorem MachineState.setRegs_i (m : MachineState) (bytes : List Byte) : (m.setRegs bytes).i = m.i := by
  simp only [MachineState.setRegs]
@[simp] theorem MachineState.setRegs_pc (m : MachineState) (bytes : List Byte) : (m.setRegs bytes).pc = m.pc := by
  simp only [MachineState.setRegs]
@[simp] theorem MachineState.setRegs_stack (m : MachineState) (bytes : List Byte) : (m.setRegs bytes).stack = m.stack := by
  simp only [MachineState.setRegs]
@[simp] theorem MachineState.setRegs_sp (m : MachineState) (bytes : List Byte) : (m.setRegs bytes).sp = m.sp := by
  simp only [MachineState.setRegs]
@[simp] theorem MachineState.setRegs_dt (m : MachineState) (bytes : List Byte) : (m.setRegs bytes).dt = m.dt := by
  simp only [MachineState.setRegs]
@[simp] theorem MachineState.setRegs_st (m : MachineState) (bytes : List Byte) : (m.setRegs bytes).st = m.st := by
  simp only [MachineState.setRegs]
@[simp] theorem MachineState.setRegs_screen (m : MachineState) (bytes : List Byte) : (m.setRegs bytes).screen = m.screen := by
  simp only [MachineState.setRegs]
@[simp] theorem MachineState.setRegs_keys (m : MachineState) (bytes : List Byte) : (m.setRegs bytes).keys = m.keys := by
  simp only [MachineState.setRegs]
@[simp] theorem MachineState.setRegs_pending (m : MachineState) (bytes : List Byte) : (m.setRegs bytes).pending = m.pending := by
  simp only [MachineState.setRegs]

/-! ### setI -/

@[simp] theorem MachineState.setI_memory (m : MachineState) (w : Word) : (m.setI w).memory = m.memory := rfl
@[simp] theorem MachineState.setI_v (m : MachineState) (w : Word) : (m.setI w).v = m.v := rfl
@[simp] theorem MachineState.setI_i (m : MachineState) (w : Word) : (m.setI w).i = w := rfl
@[simp] theorem MachineState.setI_pc (m : MachineState) (w : Word) : (m.setI w).pc = m.pc := rfl
@[simp] theorem MachineState.setI_stack (m : MachineState) (w : Word) : (m.setI w).stack = m.stack := rfl
@[simp] theorem MachineState.setI_sp (m : MachineState) (w : Word) : (m.setI w).sp = m.sp := rfl
@[simp] theorem MachineState.setI_dt (m : MachineState) (w : Word) : (m.setI w).dt = m.dt := rfl
@[simp] theorem MachineState.setI_st (m : MachineState) (w : Word) : (m.setI w).st = m.st := rfl
@[simp] theorem MachineState.setI_screen (m : MachineState) (w : Word) : (m.setI w).screen = m.screen := rfl
@[simp] theorem MachineState.setI_keys (m : MachineState) (w : Word) : (m.setI w).keys = m.keys := rfl
@[simp] theorem MachineState.setI_pending (m : MachineState) (w : Word) : (m.setI w).pending = m.pending := rfl

/-! ### setPc -/

@[simp] theorem MachineState.setPc_memory (m : MachineState) (w : Word) : (m.setPc w).memory = m.memory := rfl
@[simp] theorem MachineState.setPc_v (m : MachineState) (w : Word) : (m.setPc w).v = m.v := rfl
@[simp] theorem MachineState.setPc_i (m : MachineState) (w : Word) : (m.setPc w).i = m.i := rfl
@[simp] theorem MachineState.setPc_pc (m : MachineState) (w : Word) : (m.setPc w).pc = w := rfl
@[simp] theorem MachineState.setPc_stack (m : MachineState) (w : Word) : (m.setPc w).stack = m.stack := rfl
@[simp] theorem MachineState.setPc_sp (m : MachineState) (w : Word) : (m.setPc w).sp = m.sp := rfl
@[simp] theorem MachineState.setPc_dt (m : MachineState) (w : Word) : (m.setPc w).dt = m.dt := rfl
@[simp] theorem MachineState.setPc_st (m : MachineState) (w : Word) : (m.setPc w).st = m.st := rfl
@[simp] theorem MachineState.setPc_screen (m : MachineState) (w : Word) : (m.setPc w).screen = m.screen := rfl
@[simp] theorem MachineState.setPc_keys (m : MachineState) (w : Word) : (m.setPc w).keys = m.keys := rfl
@[simp] theorem MachineState.setPc_pending (m : MachineState) (w : Word) : (m.setPc w).pending = m.pending := rfl

/-! ### advance -/

@[simp] theorem MachineState.advance_memory (m : MachineState) : m.advance.memory = m.memory := rfl
@[simp] theorem MachineState.advance_v (m : MachineState) : m.advance.v = m.v := rfl
@[simp] theorem MachineState.advance_i (m : MachineState) : m.advance.i = m.i := rfl
@[simp] theorem MachineState.advance_pc (m : MachineState) : m.advance.pc = m.pc + 2 := rfl
@[simp] theorem MachineState.advance_stack (m : MachineState) : m.advance.stack = m.stack := rfl
@[simp] theorem MachineState.advance_sp (m : MachineState) : m.advance.sp = m.sp := rfl
@[simp] theorem MachineState.advance_dt (m : MachineState) : m.advance.dt = m.dt := rfl
@[simp] theorem MachineState.advance_st (m : MachineState) : m.advance.st = m.st := rfl
@[simp] theorem MachineState.advance_screen (m : MachineState) : m.advance.screen = m.screen := rfl
@[simp] theorem MachineState.advance_keys (m : MachineState) : m.advance.keys = m.keys := rfl
@[simp] theorem MachineState.advance_pending (m : MachineState) : m.advance.pending = m.pending := rfl

/-! ### skipIf -/

@[simp] theorem MachineState.skipIf_memory (m : MachineState) (c : Bool) : (m.skipIf c).memory = m.memory := rfl
@[simp] theorem MachineState.skipIf_v (m : MachineState) (c : Bool) : (m.skipIf c).v = m.v := rfl
@[simp] theorem MachineState.skipIf_i (m : MachineState) (c : Bool) : (m.skipIf c).i = m.i := rfl
@[simp] theorem MachineState.skipIf_pc (m : MachineState) (c : Bool) : (m.skipIf c).pc = m.pc + (if c then 4 else 2) := rfl
@[simp] theorem MachineState.skipIf_stack (m : MachineState) (c : Bool) : (m.skipIf c).stack = m.stack := rfl
@[simp] theorem MachineState.skipIf_sp (m : MachineState) (c : Bool) : (m.skipIf c).sp = m.sp := rfl
@[simp] theorem MachineState.skipIf_dt (m : MachineState) (c : Bool) : (m.skipIf c).dt = m.dt := rfl
@[simp] theorem MachineState.skipIf_st (m : MachineState) (c : Bool) : (m.skipIf c).st = m.st := rfl
@[simp] theorem MachineState.skipIf_screen (m : MachineState) (c : Bool) : (m.skipIf c).screen = m.screen := rfl
@[simp] theorem MachineState.skipIf_keys (m : MachineState) (c : Bool) : (m.skipIf c).keys = m.keys := rfl
@[simp] theorem MachineState.skipIf_pending (m : MachineState) (c : Bool) : (m.skipIf c).pending = m.pending := rfl

/-! ### setDt -/

@[simp] theorem MachineState.setDt_memory (m : MachineState) (b : Byte) : (m.setDt b).memory = m.memory := rfl
@[simp] theorem MachineState.setDt_v (m : MachineState) (b : Byte) : (m.setDt b).v = m.v := rfl
@[simp] theorem MachineState.setDt_i (m : MachineState) (b : Byte) : (m.setDt b).i = m.i := rfl
@[simp] theorem MachineState.setDt_pc (m : MachineState) (b : Byte) : (m.setDt b).pc = m.pc := rfl
@[simp] theorem MachineState.setDt_stack (m : MachineState) (b : Byte) : (m.setDt b).stack = m.stack := rfl
@[simp] theorem MachineState.setDt_sp (m : MachineState) (b : Byte) : (m.setDt b).sp = m.sp := rfl
@[simp] theorem MachineState.setDt_dt (m : MachineState) (b : Byte) : (m.setDt b).dt = b := rfl
@[simp] theorem MachineState.setDt_st (m : MachineState) (b : Byte) : (m.setDt b).st = m.st := rfl
@[simp] theorem MachineState.setDt_screen (m : MachineState) (b : Byte) : (m.setDt b).screen = m.screen := rfl
@[simp] theorem MachineState.setDt_keys (m : MachineState) (b : Byte) : (m.setDt b).keys = m.keys := rfl
@[simp] theorem MachineState.setDt_pending (m : MachineState) (b : Byte) : (m.setDt b).pending = m.pending := rfl

/-! ### setSt -/

@[simp] theorem MachineState.setSt_memory (m : MachineState) (b : Byte) : (m.setSt b).memory = m.memory := rfl
@[simp] theorem MachineState.setSt_v (m : MachineState) (b : Byte) : (m.setSt b).v = m.v := rfl
@[simp] theorem MachineState.setSt_i (m : MachineState) (b : Byte) : (m.setSt b).i = m.i := rfl
@[simp] theorem MachineState.setSt_pc (m : MachineState) (b : Byte) : (m.setSt b).pc = m.pc := rfl
@[simp] theorem MachineState.setSt_stack (m : MachineState) (b : Byte) : (m.setSt b).stack = m.stack := rfl
@[simp] theorem MachineState.setSt_sp (m : MachineState) (b : Byte) : (m.setSt b).sp = m.sp := rfl
@[simp] theorem MachineState.setSt_dt (m : MachineState) (b : Byte) : (m.setSt b).dt = m.dt := rfl
@[simp] theorem MachineState.setSt_st (m : MachineState) (b : Byte) : (m.setSt b).st = b := rfl
@[simp] theorem MachineState.setSt_screen (m : MachineState) (b : Byte) : (m.setSt b).screen = m.screen := rfl
@[simp] theorem MachineState.setSt_keys (m : MachineState) (b : Byte) : (m.setSt b).keys = m.keys := rfl
@[simp] theorem MachineState.setSt_pending (m : MachineState) (b : Byte) : (m.setSt b).pending = m.pending := rfl

/-! ### setPending -/

@[simp] theorem MachineState.setPending_memory (m : MachineState) (k : Option Key) : (m.setPending k).memory = m.memory := rfl
@[simp] theorem MachineState.setPending_v (m : MachineState) (k : Option Key) : (m.setPending k).v = m.v := rfl
@[simp] theorem MachineState.setPending_i (m : MachineState) (k : Option Key) : (m.setPending k).i = m.i := rfl
@[simp] theorem MachineState.setPending_pc (m : MachineState) (k : Option Key) : (m.setPending k).pc = m.pc := rfl
@[simp] theorem MachineState.setPending_stack (m : MachineState) (k : Option Key) : (m.setPending k).stack = m.stack := rfl
@[simp] theorem MachineState.setPending_sp (m : MachineState) (k : Option Key) : (m.setPending k).sp = m.sp := rfl
@[simp] theorem MachineState.setPending_dt (m : MachineState) (k : Option Key) : (m.setPending k).dt = m.dt := rfl
@[simp] theorem MachineState.setPending_st (m : MachineState) (k : Option Key) : (m.setPending k).st = m.st := rfl
@[simp] theorem MachineState.setPending_screen (m : MachineState) (k : Option Key) : (m.setPending k).screen = m.screen := rfl
@[simp] theorem MachineState.setPending_keys (m : MachineState) (k : Option Key) : (m.setPending k).keys = m.keys := rfl
@[simp] theorem MachineState.setPending_pending (m : MachineState) (k : Option Key) : (m.setPending k).pending = k := rfl

/-! ### setKey -/

@[simp] theorem MachineState.setKey_memory (m : MachineState) (k : Key) (b : Bool) : (m.setKey k b).memory = m.memory := rfl
@[simp] theorem MachineState.setKey_v (m : MachineState) (k : Key) (b : Bool) : (m.setKey k b).v = m.v := rfl
@[simp] theorem MachineState.setKey_i (m : MachineState) (k : Key) (b : Bool) : (m.setKey k b).i = m.i := rfl
@[simp] theorem MachineState.setKey_pc (m : MachineState) (k : Key) (b : Bool) : (m.setKey k b).pc = m.pc := rfl
@[simp] theorem MachineState.setKey_stack (m : MachineState) (k : Key) (b : Bool) : (m.setKey k b).stack = m.stack := rfl
@[simp] theorem MachineState.setKey_sp (m : MachineState) (k : Key) (b : Bool) : (m.setKey k b).sp = m.sp := rfl
@[simp] theorem MachineState.setKey_dt (m : MachineState) (k : Key) (b : Bool) : (m.setKey k b).dt = m.dt := rfl
@[simp] theorem MachineState.setKey_st (m : MachineState) (k : Key) (b : Bool) : (m.setKey k b).st = m.st := rfl
@[simp] theorem MachineState.setKey_screen (m : MachineState) (k : Key) (b : Bool) : (m.setKey k b).screen = m.screen := rfl
@[simp] theorem MachineState.setKey_keys (m : MachineState) (k : Key) (b : Bool) : (m.setKey k b).keys = m.keys.set k b := rfl
@[simp] theorem MachineState.setKey_pending (m : MachineState) (k : Key) (b : Bool) : (m.setKey k b).pending = m.pending := rfl

/-! ### setScreen -/

@[simp] theorem MachineState.setScreen_memory (m : MachineState) (scr : Screen) : (m.setScreen scr).memory = m.memory := rfl
@[simp] theorem MachineState.setScreen_v (m : MachineState) (scr : Screen) : (m.setScreen scr).v = m.v := rfl
@[simp] theorem MachineState.setScreen_i (m : MachineState) (scr : Screen) : (m.setScreen scr).i = m.i := rfl
@[simp] theorem MachineState.setScreen_pc (m : MachineState) (scr : Screen) : (m.setScreen scr).pc = m.pc := rfl
@[simp] theorem MachineState.setScreen_stack (m : MachineState) (scr : Screen) : (m.setScreen scr).stack = m.stack := rfl
@[simp] theorem MachineState.setScreen_sp (m : MachineState) (scr : Screen) : (m.setScreen scr).sp = m.sp := rfl
@[simp] theorem MachineState.setScreen_dt (m : MachineState) (scr : Screen) : (m.setScreen scr).dt = m.dt := rfl
@[simp] theorem MachineState.setScreen_st (m : MachineState) (scr : Screen) : (m.setScreen scr).st = m.st := rfl
@[simp] theorem MachineState.setScreen_screen (m : MachineState) (scr : Screen) : (m.setScreen scr).screen = scr := rfl
@[simp] theorem MachineState.setScreen_keys (m : MachineState) (scr : Screen) : (m.setScreen scr).keys = m.keys := rfl
@[simp] theorem MachineState.setScreen_pending (m : MachineState) (scr : Screen) : (m.setScreen scr).pending = m.pending := rfl

/-! ### setMemory -/

@[simp] theorem MachineState.setMemory_memory (m : MachineState) (mem : Memory) : (m.setMemory mem).memory = mem := rfl
@[simp] theorem MachineState.setMemory_v (m : MachineState) (mem : Memory) : (m.setMemory mem).v = m.v := rfl
@[simp] theorem MachineState.setMemory_i (m : MachineState) (mem : Memory) : (m.setMemory mem).i = m.i := rfl
@[simp] theorem MachineState.setMemory_pc (m : MachineState) (mem : Memory) : (m.setMemory mem).pc = m.pc := rfl
@[simp] theorem MachineState.setMemory_stack (m : MachineState) (mem : Memory) : (m.setMemory mem).stack = m.stack := rfl
@[simp] theorem MachineState.setMemory_sp (m : MachineState) (mem : Memory) : (m.setMemory mem).sp = m.sp := rfl
@[simp] theorem MachineState.setMemory_dt (m : MachineState) (mem : Memory) : (m.setMemory mem).dt = m.dt := rfl
@[simp] theorem MachineState.setMemory_st (m : MachineState) (mem : Memory) : (m.setMemory mem).st = m.st := rfl
@[simp] theorem MachineState.setMemory_screen (m : MachineState) (mem : Memory) : (m.setMemory mem).screen = m.screen := rfl
@[simp] theorem MachineState.setMemory_keys (m : MachineState) (mem : Memory) : (m.setMemory mem).keys = m.keys := rfl
@[simp] theorem MachineState.setMemory_pending (m : MachineState) (mem : Memory) : (m.setMemory mem).pending = m.pending := rfl

/-! ### State.raise -/

@[simp] theorem State.raise_machine (s : State) (c : FaultCause) (w : Word) : (s.raise c w).machine = s.machine := rfl
@[simp] theorem State.raise_fault (s : State) (c : FaultCause) (w : Word) : (s.raise c w).fault = some ⟨c, w⟩ := rfl
@[simp] theorem State.raise_paused (s : State) (c : FaultCause) (w : Word) : (s.raise c w).paused = s.paused := rfl
@[simp] theorem State.raise_cancelled (s : State) (c : FaultCause) (w : Word) : (s.raise c w).cancelled = s.cancelled := rfl
@[simp] theorem State.raise_cycleInFrame (s : State) (c : FaultCause) (w : Word) : (s.raise c w).cycleInFrame = s.cycleInFrame := rfl
@[simp] theorem State.raise_progId (s : State) (c : FaultCause) (w : Word) : (s.raise c w).progId = s.progId := rfl
@[simp] theorem State.raise_screenOut (s : State) (c : FaultCause) (w : Word) : (s.raise c w).screenOut = s.screenOut := rfl
@[simp] theorem State.raise_soundOut (s : State) (c : FaultCause) (w : Word) : (s.raise c w).soundOut = s.soundOut := rfl
@[simp] theorem State.raise_stateOut (s : State) (c : FaultCause) (w : Word) : (s.raise c w).stateOut = s.stateOut := rfl
@[simp] theorem State.raise_config (s : State) (c : FaultCause) (w : Word) : (s.raise c w).config = s.config := rfl
@[simp] theorem State.raise_turns (s : State) (c : FaultCause) (w : Word) : (s.raise c w).turns = s.turns := rfl
@[simp] theorem State.raise_draws (s : State) (c : FaultCause) (w : Word) : (s.raise c w).draws = s.draws := rfl

/-! ### State.clearFault -/

@[simp] theorem State.clearFault_machine (s : State) : s.clearFault.machine = s.machine := rfl
@[simp] theorem State.clearFault_fault (s : State) : s.clearFault.fault = none := rfl
@[simp] theorem State.clearFault_paused (s : State) : s.clearFault.paused = s.paused := rfl
@[simp] theorem State.clearFault_cancelled (s : State) : s.clearFault.cancelled = s.cancelled := rfl
@[simp] theorem State.clearFault_cycleInFrame (s : State) : s.clearFault.cycleInFrame = s.cycleInFrame := rfl
@[simp] theorem State.clearFault_progId (s : State) : s.clearFault.progId = s.progId := rfl
@[simp] theorem State.clearFault_screenOut (s : State) : s.clearFault.screenOut = s.screenOut := rfl
@[simp] theorem State.clearFault_soundOut (s : State) : s.clearFault.soundOut = s.soundOut := rfl
@[simp] theorem State.clearFault_stateOut (s : State) : s.clearFault.stateOut = s.stateOut := rfl
@[simp] theorem State.clearFault_config (s : State) : s.clearFault.config = s.config := rfl
@[simp] theorem State.clearFault_turns (s : State) : s.clearFault.turns = s.turns := rfl
@[simp] theorem State.clearFault_draws (s : State) : s.clearFault.draws = s.draws := rfl

/-! ### State.countDraw -/

@[simp] theorem State.countDraw_machine (s : State) : s.countDraw.machine = s.machine := rfl
@[simp] theorem State.countDraw_fault (s : State) : s.countDraw.fault = s.fault := rfl
@[simp] theorem State.countDraw_paused (s : State) : s.countDraw.paused = s.paused := rfl
@[simp] theorem State.countDraw_cancelled (s : State) : s.countDraw.cancelled = s.cancelled := rfl
@[simp] theorem State.countDraw_cycleInFrame (s : State) : s.countDraw.cycleInFrame = s.cycleInFrame := rfl
@[simp] theorem State.countDraw_progId (s : State) : s.countDraw.progId = s.progId := rfl
@[simp] theorem State.countDraw_screenOut (s : State) : s.countDraw.screenOut = s.screenOut := rfl
@[simp] theorem State.countDraw_soundOut (s : State) : s.countDraw.soundOut = s.soundOut := rfl
@[simp] theorem State.countDraw_stateOut (s : State) : s.countDraw.stateOut = s.stateOut := rfl
@[simp] theorem State.countDraw_config (s : State) : s.countDraw.config = s.config := rfl
@[simp] theorem State.countDraw_turns (s : State) : s.countDraw.turns = s.turns := rfl
@[simp] theorem State.countDraw_draws (s : State) : s.countDraw.draws = s.draws + 1 := rfl

/-! ### State.setPause -/

@[simp] theorem State.setPause_machine (s : State) (b : Bool) : (s.setPause b).machine = s.machine := rfl
@[simp] theorem State.setPause_fault (s : State) (b : Bool) : (s.setPause b).fault = s.fault := rfl
@[simp] theorem State.setPause_paused (s : State) (b : Bool) : (s.setPause b).paused = b := rfl
@[simp] theorem State.setPause_cancelled (s : State) (b : Bool) : (s.setPause b).cancelled = s.cancelled := rfl
@[simp] theorem State.setPause_cycleInFrame (s : State) (b : Bool) : (s.setPause b).cycleInFrame = s.cycleInFrame := rfl
@[simp] theorem State.setPause_progId (s : State) (b : Bool) : (s.setPause b).progId = s.progId := rfl
@[simp] theorem State.setPause_screenOut (s : State) (b : Bool) : (s.setPause b).screenOut = s.screenOut := rfl
@[simp] theorem State.setPause_soundOut (s : State) (b : Bool) : (s.setPause b).soundOut = s.soundOut := rfl
@[simp] theorem State.setPause_stateOut (s : State) (b : Bool) : (s.setPause b).stateOut = s.stateOut := rfl
@[simp] theorem State.setPause_config (s : State) (b : Bool) : (s.setPause b).config = s.config := rfl
@[simp] theorem State.setPause_turns (s : State) (b : Bool) : (s.setPause b).turns = s.turns := rfl
@[simp] theorem State.setPause_draws (s : State) (b : Bool) : (s.setPause b).draws = s.draws := rfl

/-! ### State.cancel -/

@[simp] theorem State.cancel_machine (s : State) : s.cancel.machine = s.machine := rfl
@[simp] theorem State.cancel_fault (s : State) : s.cancel.fault = s.fault := rfl
@[simp] theorem State.cancel_paused (s : State) : s.cancel.paused = s.paused := rfl
@[simp] theorem State.cancel_cancelled (s : State) : s.cancel.cancelled = true := rfl
@[simp] theorem State.cancel_cycleInFrame (s : State) : s.cancel.cycleInFrame = s.cycleInFrame := rfl
@[simp] theorem State.cancel_progId (s : State) : s.cancel.progId = s.progId := rfl
@[simp] theorem State.cancel_screenOut (s : State) : s.cancel.screenOut = s.screenOut := rfl
@[simp] theorem State.cancel_soundOut (s : State) : s.cancel.soundOut = s.soundOut := rfl
@[simp] theorem State.cancel_stateOut (s : State) : s.cancel.stateOut = s.stateOut := rfl
@[simp] theorem State.cancel_config (s : State) : s.cancel.config = s.config := rfl
@[simp] theorem State.cancel_turns (s : State) : s.cancel.turns = s.turns := rfl
@[simp] theorem State.cancel_draws (s : State) : s.cancel.draws = s.draws := rfl

/-! ### State.publish -/

@[simp] theorem State.publish_machine (s : State) : s.publish.machine = s.machine := rfl
@[simp] theorem State.publish_fault (s : State) : s.publish.fault = s.fault := rfl
@[simp] theorem State.publish_paused (s : State) : s.publish.paused = s.paused := rfl
@[simp] theorem State.publish_cancelled (s : State) : s.publish.cancelled = s.cancelled := rfl
@[simp] theorem State.publish_cycleInFrame (s : State) : s.publish.cycleInFrame = 0 := rfl
@[simp] theorem State.publish_progId (s : State) : s.publish.progId = s.progId := rfl
@[simp] theorem State.publish_screenOut (s : State) : s.publish.screenOut = s.machine.screen := rfl
@[simp] theorem State.publish_soundOut (s : State) : s.publish.soundOut = s.machine.st := rfl
@[simp] theorem State.publish_stateOut (s : State) : s.publish.stateOut = s.machine := rfl
@[simp] theorem State.publish_config (s : State) : s.publish.config = s.config := rfl
@[simp] theorem State.publish_turns (s : State) : s.publish.turns = s.turns := rfl
@[simp] theorem State.publish_draws (s : State) : s.publish.draws = s.draws := rfl

/-! ### State.frameTick -/

@[simp] theorem State.frameTick_machine (s : State) : s.frameTick.machine = s.machine.tick := rfl
@[simp] theorem State.frameTick_fault (s : State) : s.frameTick.fault = s.fault := rfl
@[simp] theorem State.frameTick_paused (s : State) : s.frameTick.paused = s.paused := rfl
@[simp] theorem State.frameTick_cancelled (s : State) : s.frameTick.cancelled = s.cancelled := rfl
@[simp] theorem State.frameTick_cycleInFrame (s : State) : s.frameTick.cycleInFrame = 0 := rfl
@[simp] theorem State.frameTick_progId (s : State) : s.frameTick.progId = s.progId := rfl
@[simp] theorem State.frameTick_screenOut (s : State) : s.frameTick.screenOut = s.machine.tick.screen := rfl
@[simp] theorem State.frameTick_soundOut (s : State) : s.frameTick.soundOut = s.machine.tick.st := rfl
@[simp] theorem State.frameTick_stateOut (s : State) : s.frameTick.stateOut = s.machine.tick := rfl
@[simp] theorem State.frameTick_config (s : State) : s.frameTick.config = s.config := rfl
@[simp] theorem State.frameTick_turns (s : State) : s.frameTick.turns = s.turns := rfl
@[simp] theorem State.frameTick_draws (s : State) : s.frameTick.draws = s.draws := rfl

end Sys2Proof.Machine
end

