-- ==== Sys2Proof/Laws/Ops.lean ====
section
/-! SUPPORT. What each shared operation does, said once: later proofs cite these and do not unfold the operations. -/

namespace Sys2Proof.Machine

/-! ### Registers -/

@[simp] theorem MachineState.reg_setReg (m : MachineState) (x y : Reg) (b : Byte) :
    (m.setReg x b).reg y = if x = y then b else m.reg y := by
  simp only [MachineState.reg, MachineState.setReg, Fin.getElem_fin, Vector.getElem_set, Fin.ext_iff]

@[simp] theorem MachineState.reg_setFlag (m : MachineState) (f : Bool) (y : Reg) :
    (m.setFlag f).reg y = if y = 15 then flagByte f else m.reg y := by
  rw [MachineState.setFlag, MachineState.reg_setReg]
  simp only [flagReg, eq_comm]

/-- A block of bytes into the registers below its length; the others keep their value. -/
@[simp] theorem MachineState.reg_setRegs (m : MachineState) (bytes : List Byte) (y : Reg) :
    (m.setRegs bytes).reg y = bytes[y.val]?.getD (m.reg y) := by
  simp [MachineState.reg, MachineState.setRegs]

@[simp] theorem MachineState.reg_setI (m : MachineState) (w : Word) (y : Reg) : (m.setI w).reg y = m.reg y := rfl
@[simp] theorem MachineState.reg_setPc (m : MachineState) (w : Word) (y : Reg) : (m.setPc w).reg y = m.reg y := rfl
@[simp] theorem MachineState.reg_advance (m : MachineState) (y : Reg) : m.advance.reg y = m.reg y := rfl
@[simp] theorem MachineState.reg_skipIf (m : MachineState) (c : Bool) (y : Reg) : (m.skipIf c).reg y = m.reg y := rfl
@[simp] theorem MachineState.reg_setDt (m : MachineState) (b : Byte) (y : Reg) : (m.setDt b).reg y = m.reg y := rfl
@[simp] theorem MachineState.reg_setSt (m : MachineState) (b : Byte) (y : Reg) : (m.setSt b).reg y = m.reg y := rfl
@[simp] theorem MachineState.reg_setPending (m : MachineState) (k : Option Key) (y : Reg) :
    (m.setPending k).reg y = m.reg y := rfl
@[simp] theorem MachineState.reg_setKey (m : MachineState) (k : Key) (b : Bool) (y : Reg) :
    (m.setKey k b).reg y = m.reg y := rfl
@[simp] theorem MachineState.reg_setScreen (m : MachineState) (scr : Screen) (y : Reg) :
    (m.setScreen scr).reg y = m.reg y := rfl
@[simp] theorem MachineState.reg_setMemory (m : MachineState) (mem : Memory) (y : Reg) :
    (m.setMemory mem).reg y = m.reg y := rfl

theorem flagByte_cases (f : Bool) : flagByte f = 0 ∨ flagByte f = 1 := by cases f <;> simp [flagByte]

/-- The flag byte as the if of a condition. -/
theorem flagByte_decide (p : Prop) [Decidable p] : flagByte (decide p) = if p then 1 else 0 := by
  by_cases h : p <;> simp [flagByte, h]

/-! ### Keys -/

@[simp] theorem MachineState.keyDown_setKey (m : MachineState) (k j : Key) (b : Bool) :
    (m.setKey k b).keyDown j = if k = j then b else m.keyDown j := by
  simp only [MachineState.keyDown, MachineState.setKey, Fin.getElem_fin, Vector.getElem_set, Fin.ext_iff]

/-- The key scan finds the least key that is down. -/
theorem MachineState.firstKeyDown_eq_some (m : MachineState) (k : Key) :
    m.firstKeyDown = some k ↔ m.keyDown k = true ∧ ∀ j, j < k → m.keyDown j = false := by
  rw [MachineState.firstKeyDown, List.find?_eq_some_iff_getElem]
  constructor
  · rintro ⟨hk, i, hi, he, hl⟩
    simp only [List.getElem_finRange] at he
    subst he
    refine ⟨hk, fun j hj => ?_⟩
    have := hl j.val (by simpa [Fin.lt_def] using hj)
    simpa using this
  · rintro ⟨hk, hl⟩
    refine ⟨hk, k.val, by simp, by simp, fun j hj => ?_⟩
    have := hl ⟨j, by omega⟩ (by simpa [Fin.lt_def] using hj)
    simpa using this

theorem MachineState.firstKeyDown_eq_none (m : MachineState) :
    m.firstKeyDown = none ↔ ∀ k, m.keyDown k = false := by
  simp [MachineState.firstKeyDown]

theorem keyIndex_of_le (b : Byte) (k : Key) (h : b.toNat = k.val) : keyIndex b = some k := by
  have := k.isLt
  rw [keyIndex, dif_pos (by omega)]
  simp [h]

theorem keyIndex_of_gt (b : Byte) (h : b.toNat > 15) : keyIndex b = none := by
  rw [keyIndex, dif_neg (by omega)]

/-- The two key skips, once: a legal index skips by the condition, an illegal one raises (R113). -/
theorem State.keySkip_cases (s : State) (x : Reg) (cond : Key → Bool) :
    (∃ k : Key, (s.machine.reg x).toNat = k.val ∧ s.keySkip x cond = s.complete (s.machine.skipIf (cond k))) ∨
    ((s.machine.reg x).toNat > 15 ∧
      s.keySkip x cond = .next (s.raise .keyIndexOutOfRange (zextByte (s.machine.reg x)))) := by
  by_cases h : (s.machine.reg x).toNat < 16
  · exact .inl ⟨⟨_, h⟩, rfl, by rw [State.keySkip, keyIndex_of_le _ ⟨_, h⟩ rfl]⟩
  · exact .inr ⟨by omega, by rw [State.keySkip, keyIndex_of_gt _ (by omega)]⟩

/-! ### The call stack -/

theorem MachineState.push_of_lt (m : MachineState) (w : Word) (h : m.sp.val < 16) :
    m.push w = some { m with stack := m.stack.set m.sp.val w, sp := ⟨m.sp.val + 1, by omega⟩ } := by
  rw [MachineState.push, dif_pos h]

theorem MachineState.push_full (m : MachineState) (w : Word) (h : m.sp.val = 16) : m.push w = none := by
  rw [MachineState.push, dif_neg (by omega)]

theorem MachineState.pop_of_pos (m : MachineState) (h : 0 < m.sp.val) :
    m.pop = some (m.stack[m.sp.val - 1]'(by omega), { m with sp := ⟨m.sp.val - 1, by omega⟩ }) := by
  rw [MachineState.pop, dif_pos h]

theorem MachineState.pop_empty (m : MachineState) (h : m.sp.val = 0) : m.pop = none := by
  rw [MachineState.pop, dif_neg (by omega)]

/-! ### Outcomes -/

theorem State.complete_eq (s : State) (m : MachineState) : s.complete m = .next { s with machine := m } := rfl

/-- An operation with a flag, once: result, flag written last, `pc` past the instruction. -/
theorem State.aluFlag_eq (s : State) (x : Reg) (r : Byte) (f : Bool) :
    s.aluFlag x r f = .next { s with machine := ((s.machine.setReg x r).setFlag f).advance } := rfl

theorem State.aluPlain_eq (s : State) (x : Reg) (r : Byte) :
    s.aluPlain x r = .next { s with machine := (s.machine.setReg x r).advance } := rfl

theorem MachineState.dataInRange_iff (m : MachineState) (k : Nat) :
    m.dataInRange k = true ↔ k = 0 ∨ m.i.toNat + k - 1 ≤ 4095 := by
  simp [MachineState.dataInRange]

theorem State.checkedAccess_inside (s : State) (k : Nat) (access : Result)
    (h : k = 0 ∨ s.machine.i.toNat + k - 1 ≤ 4095) : s.checkedAccess k access = access := by
  rw [State.checkedAccess, if_pos ((MachineState.dataInRange_iff _ _).mpr h)]

theorem State.checkedAccess_outside (s : State) (k : Nat) (access : Result) (h : 0 < k)
    (h' : s.machine.i.toNat + k - 1 > 4095) :
    s.checkedAccess k access = .next (s.raise .memoryOutOfBounds s.machine.i) := by
  rw [State.checkedAccess, if_neg (by rw [MachineState.dataInRange_iff]; omega)]

/-! ### Bytes of a state -/

theorem State.readByte_eq (s : State) (a : Nat) : s.readByte a = Memory.read s.config s.machine.memory a := rfl

/-- The `k`-th of the `n` data bytes at `I`. -/
theorem State.getElem?_dataBytes (s : State) (n k : Nat) :
    (s.dataBytes n)[k]? = if k < n then some (s.readByte (s.machine.i.toNat + k)) else none := by
  simp [State.dataBytes, Memory.getElem?_readList, State.readByte, MachineState.dataAddress]

theorem State.read_storeBytes_outside (s : State) (bytes : List Byte) (a : Nat)
    (h : a < s.machine.i.toNat ∨ s.machine.i.toNat + bytes.length ≤ a) :
    Memory.read s.config (s.storeBytes bytes) a = s.readByte a :=
  Memory.read_writeList_outside s.config bytes s.machine.memory _ a h

theorem State.read_storeBytes_inside (s : State) (bytes : List Byte) (k : Nat) (hk : k < bytes.length)
    (h : s.machine.i.toNat + bytes.length ≤ 4096) :
    Memory.read s.config (s.storeBytes bytes) (s.machine.i.toNat + k) = bytes[k] :=
  Memory.read_writeList_inside s.config bytes s.machine.memory _ k hk h

@[simp] theorem MachineState.length_regsUpTo (m : MachineState) (x : Reg) : (m.regsUpTo x).length = x.val + 1 := by
  simp [MachineState.regsUpTo]

theorem MachineState.getElem_regsUpTo (m : MachineState) (x r : Reg) (h : r ≤ x) :
    (m.regsUpTo x)[r.val]'(by rw [MachineState.length_regsUpTo]; exact Nat.lt_succ_of_le h) = m.reg r := by
  simp [MachineState.regsUpTo, MachineState.reg]

/-- A store keeps the canonical form. -/
theorem State.wf_storeBytes (s : State) (bytes : List Byte) (h : Memory.wf s.config s.machine.memory = true) :
    Memory.wf s.config (s.storeBytes bytes) = true :=
  Memory.wf_writeList s.config bytes s.machine.memory _ h

end Sys2Proof.Machine
end

