-- ==== Sys2Proof/Laws/Draw.lean ====
section
/-! SUPPORT. The draw, pixel by pixel: one step, one row, the whole sprite. -/

namespace Sys2Proof.Machine

/-! ### Pixels -/

@[simp] theorem Screen.pixel_blank (x y : Nat) : Screen.blank.pixel x y = false := by
  simp [Screen.pixel, Screen.blank]

theorem Screen.pixel_toggle (scr : Screen) (x y px py : Nat) (hx : px ≤ 63) (hy : py ≤ 31) :
    (scr.toggle x y).pixel px py = (scr.pixel px py ^^ decide (px = x ∧ py = y)) := by
  unfold Screen.toggle
  split
  · rename_i h
    simp only [Screen.pixel, show py < 32 by omega, dite_true, Vector.getElem_set]
    by_cases e : y = py
    · subst e; simp [show px < 64 by omega, eq_comm]
    · simp [e, Ne.symm e]
  · rename_i h
    have : ¬ (px = x ∧ py = y) := by omega
    simp [this]

/-! ### The draw's specification -/

/-- The collision and the pixels of a draw in progress that XORs the bits `bit` onto the screen of `d`: where `bit` is
off the screen it counts for nothing. -/
structure Drawn.Xors (d e : Drawn) (bit : Nat → Nat → Bool) : Prop where
  pixel : ∀ px py, px ≤ 63 → py ≤ 31 → e.screen.pixel px py = (d.screen.pixel px py ^^ bit px py)
  collision : e.collision = true ↔
    d.collision = true ∨ ∃ px py, px ≤ 63 ∧ py ≤ 31 ∧ d.screen.pixel px py = true ∧ bit px py = true

theorem Drawn.Xors.refl (d : Drawn) : d.Xors d fun _ _ => false :=
  ⟨fun _ _ _ _ => by simp, by simp⟩

/-- Two draws onto different pixels are one draw. -/
theorem Drawn.Xors.trans {d e f : Drawn} {b c : Nat → Nat → Bool} (h : d.Xors e b) (k : e.Xors f c)
    (disjoint : ∀ px py, b px py = true → c px py = false) : d.Xors f fun px py => b px py || c px py := by
  refine ⟨fun px py hx hy => ?_, ?_⟩
  · rw [k.pixel px py hx hy, h.pixel px py hx hy]
    have := disjoint px py
    cases hb : b px py <;> cases hc : c px py <;> simp_all
  · rw [k.collision, h.collision]
    constructor
    · rintro ((h1 | ⟨px, py, hx, hy, hd, hb⟩) | ⟨px, py, hx, hy, he, hc⟩)
      · exact .inl h1
      · exact .inr ⟨px, py, hx, hy, hd, by simp [hb]⟩
      · rw [h.pixel px py hx hy] at he
        have hb : b px py = false := by
          cases hb : b px py
          · rfl
          · rw [disjoint px py hb] at hc; simp at hc
        exact .inr ⟨px, py, hx, hy, by simpa [hb] using he, by simp [hc]⟩
    · rintro (h1 | ⟨px, py, hx, hy, hd, hbc⟩)
      · exact .inl (.inl h1)
      · cases hb : b px py
        · refine .inr ⟨px, py, hx, hy, ?_, by simpa [hb] using hbc⟩
          rw [h.pixel px py hx hy, hb]; simpa using hd
        · exact .inl (.inr ⟨px, py, hx, hy, hd, hb⟩)

theorem Drawn.Xors.congr {d e : Drawn} {b c : Nat → Nat → Bool} (h : d.Xors e b)
    (hbc : ∀ px py, px ≤ 63 → py ≤ 31 → b px py = c px py) : d.Xors e c := by
  refine ⟨fun px py hx hy => by rw [h.pixel px py hx hy, hbc px py hx hy], ?_⟩
  rw [h.collision]
  constructor
  · rintro (h1 | ⟨px, py, hx, hy, hd, hb⟩)
    · exact .inl h1
    · exact .inr ⟨px, py, hx, hy, hd, by rw [← hbc px py hx hy]; exact hb⟩
  · rintro (h1 | ⟨px, py, hx, hy, hd, hb⟩)
    · exact .inl h1
    · exact .inr ⟨px, py, hx, hy, hd, by rw [hbc px py hx hy]; exact hb⟩

/-! ### One pixel, one row, all rows -/

theorem Drawn.xors_pixelStep (d : Drawn) (on : Bool) (x y : Nat) :
    d.Xors (d.pixelStep on x y) fun px py => on && decide (px = x ∧ py = y) := by
  unfold Drawn.pixelStep
  split
  · rename_i h
    simp only [Bool.and_eq_true, decide_eq_true_eq] at h
    obtain ⟨⟨hon, hx⟩, hy⟩ := h
    refine ⟨fun px py hpx hpy => by rw [Screen.pixel_toggle _ _ _ _ _ hpx hpy, hon, Bool.true_and], ?_⟩
    simp only [Bool.or_eq_true, hon, Bool.true_and, decide_eq_true_eq]
    constructor
    · rintro (h1 | h1)
      · exact .inl h1
      · exact .inr ⟨x, y, hx, hy, h1, rfl, rfl⟩
    · rintro (h1 | ⟨px, py, -, -, h1, rfl, rfl⟩)
      · exact .inl h1
      · exact .inr h1
  · rename_i h
    refine (Drawn.Xors.refl d).congr fun px py hpx hpy => ?_
    simp only [Bool.and_eq_true, decide_eq_true_eq, not_and] at h
    cases on
    · rfl
    · simp only [Bool.true_and, Bool.false_eq, decide_eq_false_iff_not]
      rintro ⟨rfl, rfl⟩
      exact h ⟨rfl, hpx⟩ hpy

/-- The last `k` columns of a row: columns `x0 + 8 - k` to `x0 + 7`. -/
theorem Drawn.xors_rowFrom (d : Drawn) (b : Byte) (x0 y k : Nat) (hk : k ≤ 8) :
    d.Xors (d.rowFrom b x0 y k) fun px py =>
      decide (x0 + 8 ≤ px + k) && decide (px < x0 + 8) && decide (py = y) && b.getLsbD (7 - (px - x0)) := by
  induction k generalizing d with
  | zero =>
    refine (Drawn.Xors.refl d).congr fun px py _ _ => ?_
    by_cases h : px < x0 + 8
    · have : ¬ x0 + 8 ≤ px := by omega
      simp [this]
    · simp [h]
  | succ k ih =>
    refine ((Drawn.xors_pixelStep d (b.getLsbD k) (x0 + (7 - k)) y).trans (ih _ (by omega)) ?_).congr ?_
    · intro px py h
      simp only [Bool.and_eq_true, decide_eq_true_eq] at h
      have : ¬ x0 + 8 ≤ px + k := by omega
      simp [this]
    · intro px py _ _
      by_cases e : px = x0 + (7 - k)
      · subst e
        have h1 : ¬ x0 + 8 ≤ x0 + (7 - k) + k := by omega
        have h2 : x0 + 8 ≤ x0 + (7 - k) + (k + 1) := by omega
        have h3 : x0 + (7 - k) < x0 + 8 := by omega
        have h4 : 7 - (7 - k) = k := by omega
        simp [h1, h2, h3, h4, Bool.and_comm]
      · have h2 : (x0 + 8 ≤ px + (k + 1)) = (x0 + 8 ≤ px + k) := by
          apply propext; omega
        simp [e, h2]

theorem Drawn.xors_row (d : Drawn) (b : Byte) (x0 y : Nat) :
    d.Xors (d.rowFrom b x0 y 8) fun px py =>
      decide (x0 ≤ px) && decide (px < x0 + 8) && decide (py = y) && b.getLsbD (7 - (px - x0)) :=
  (Drawn.xors_rowFrom d b x0 y 8 (Nat.le_refl 8)).congr fun px py _ _ => by simp

/-- The whole sprite: the pixel at column `px`, row `py` is XORed with bit `7 - (px - x0)` of row byte `py - y0`. -/
theorem Drawn.xors_rows (bytes : List Byte) (d : Drawn) (x0 y0 : Nat) :
    d.Xors (d.rows x0 y0 bytes) fun px py =>
      decide (x0 ≤ px) && decide (px < x0 + 8) && decide (y0 ≤ py) && decide (py < y0 + bytes.length) &&
        (bytes[py - y0]?.getD 0).getLsbD (7 - (px - x0)) := by
  induction bytes generalizing d y0 with
  | nil =>
    refine (Drawn.Xors.refl d).congr fun px py _ _ => ?_
    simp
  | cons b rest ih =>
    refine ((Drawn.xors_row d b x0 y0).trans (ih _ (y0 + 1)) ?_).congr ?_
    · intro px py h
      simp only [Bool.and_eq_true, decide_eq_true_eq] at h
      have : ¬ y0 + 1 ≤ py := by omega
      simp [this]
    · intro px py _ _
      by_cases e : py = y0
      · subst e
        simp
      · by_cases h : y0 ≤ py
        · obtain ⟨j, rfl⟩ : ∃ j, py = y0 + (j + 1) := ⟨py - y0 - 1, by omega⟩
          have h1 : y0 + (j + 1) - (y0 + 1) = j := by omega
          have h2 : y0 + 1 ≤ y0 + (j + 1) := by omega
          have h3 : (y0 + (j + 1) < y0 + 1 + rest.length) = (y0 + (j + 1) < y0 + (rest.length + 1)) := by
            apply propext; omega
          simp [h1, h3]
        · have h1 : ¬ y0 + 1 ≤ py := by omega
          simp [e, h, h1]

end Sys2Proof.Machine
end

