-- ==== Sys2Proof/Laws/Frames.lean ====
section
/-! SUPPORT. How a frame is shown: what stays the same when only `MachineState` is replaced, and when a fault is raised. -/

namespace Sys2Proof.Machine

/-- The parts that lie outside `MachineState`. -/
def Part.outside : Part → Bool
  | .fault | .paused | .cancelled | .cycleInFrame | .progId | .outputs | .config | .turns | .draws => true
  | .byte _ | .reg _ | .i | .pc | .slot _ | .sp | .dt | .st | .pixel _ _ | .key _ | .pending => false

/-- Replacing `MachineState` leaves every part outside it alone, so a frame is a matter of the parts inside. -/
theorem onlyChanges_of_machine (s : State) (m : MachineState) (may : Part → Prop)
    (h : ∀ p, p.outside = false → ¬ may p → p.Same s { s with machine := m }) :
    OnlyChanges s { s with machine := m } may := by
  intro p hp
  cases p <;> first | exact h _ rfl hp | exact rfl | exact ⟨rfl, rfl, rfl⟩

/-- An instruction that only replaces `MachineState` completes if the result and the frame inside it are right. -/
theorem Completes.of_machine {i : Instr} {s : State} {may : Part → Prop} {post : State → Prop} (m : MachineState)
    (he : exec i s = .next { s with machine := m }) (hp : post { s with machine := m })
    (hf : ∀ p, p.outside = false → ¬ may p → p.Same s { s with machine := m }) : Completes i s may post :=
  ⟨_, he, hp, onlyChanges_of_machine s m may hf⟩

/-- A frame allows what a wider one does. -/
theorem OnlyChanges.mono {s t : State} {may can : Part → Prop} (h : OnlyChanges s t may) (hm : ∀ p, may p → can p) :
    OnlyChanges s t can := fun p hp => h p fun hq => hp (hm p hq)

/-- Raising a fault changes the latch and nothing else. -/
theorem onlyChanges_raise (s : State) (c : FaultCause) (w : Word) : OnlyChanges s (s.raise c w) fun p => p = .fault := by
  intro p hp
  cases p <;> simp_all [Part.Same, State.readByte]

/-- The fetch reads memory, `pc` and the configuration only. -/
theorem State.fetch_congr {s t : State} (hm : t.machine = s.machine) (hc : t.config = s.config) : t.fetch = s.fetch := by
  simp [State.fetch, State.readByte, hm, hc]

theorem State.instrAtPc_congr {s t : State} (hm : t.machine = s.machine) (hc : t.config = s.config) :
    t.instrAtPc = s.instrAtPc := by
  simp [State.instrAtPc, State.fetch_congr hm hc]

/-- Whether the state explains a fault depends on `MachineState` and the configuration only. -/
theorem State.explains_congr {s t : State} (hm : t.machine = s.machine) (hc : t.config = s.config) {f : FaultRecord}
    (h : s.explains f) : t.explains f := by
  unfold State.explains at *
  rwa [State.fetch_congr hm hc, State.instrAtPc_congr hm hc, hm]

theorem State.explains_raise (s : State) (c : FaultCause) (w : Word) (h : s.explains ⟨c, w⟩) :
    (s.raise c w).explains ⟨c, w⟩ := State.explains_congr rfl rfl h

end Sys2Proof.Machine
end

