-- ==== Sys2Proof/Laws/Exec.lean ====
section
/-! SUPPORT. What an instruction can do, said once. -/

namespace Sys2Proof.Machine

/-- The three shapes of an instruction's answer: `MachineState` replaced, the same with a random byte drawn, or a
fault raised. In none are the keys written. -/
inductive ExecShape (s : State) (r : Result) : Prop where
  | completes (m : MachineState) (h : r = .next { s with machine := m }) (keys : m.keys = s.machine.keys)
  | draws (m : MachineState) (h : r = .next { s.countDraw with machine := m }) (keys : m.keys = s.machine.keys)
  | raises (c : FaultCause) (w : Word) (h : r = .next (s.raise c w))

theorem execShape_checkedAccess (s : State) (n : Nat) (m : MachineState) (hk : m.keys = s.machine.keys) :
    ExecShape s (s.checkedAccess n (s.complete m)) := by
  rw [State.checkedAccess]
  split
  · exact .completes m rfl hk
  · exact .raises _ _ rfl

theorem execShape_keySkip (s : State) (x : Reg) (cond : Key → Bool) : ExecShape s (s.keySkip x cond) := by
  rcases s.keySkip_cases x cond with ⟨k, -, h⟩ | ⟨-, h⟩
  · exact .completes _ h rfl
  · exact .raises _ _ h

theorem execShape_ldVxK (s : State) (x : Reg) : ExecShape s (execLdVxK x s) := by
  unfold execLdVxK
  split
  · split
    · exact .completes _ rfl rfl
    · exact .completes _ rfl rfl
  · split
    · exact .completes _ rfl rfl
    · exact .completes _ rfl rfl

theorem execShape_call (s : State) (nnn : Nnn) : ExecShape s (execCall nnn s) := by
  by_cases h : s.machine.sp.val < 16
  · rw [execCall, MachineState.push_of_lt _ _ h]; exact .completes _ rfl rfl
  · rw [execCall, MachineState.push_full _ _ (by omega)]; exact .raises _ _ rfl

theorem execShape_ret (s : State) : ExecShape s (execRet s) := by
  by_cases h : 0 < s.machine.sp.val
  · rw [execRet, MachineState.pop_of_pos _ h]; exact .completes _ rfl rfl
  · rw [execRet, MachineState.pop_empty _ (by omega)]; exact .raises _ _ rfl

theorem exec_shape (i : Instr) (s : State) : ExecShape s (exec i s) := by
  cases i with
  | call nnn => exact execShape_call s nnn
  | ret => exact execShape_ret s
  | skp x => exact execShape_keySkip s x _
  | sknp x => exact execShape_keySkip s x _
  | ldVxK x => exact execShape_ldVxK s x
  | drw x y n => exact execShape_checkedAccess s n.val _ rfl
  | ldB x => exact execShape_checkedAccess s 3 _ rfl
  | storeRegs x => exact execShape_checkedAccess s (x.val + 1) _ rfl
  | loadRegs x =>
    exact execShape_checkedAccess s (x.val + 1) (s.machine.setRegs (s.dataBytes (x.val + 1))).advance (by simp)
  | rnd x nn => exact .draws _ rfl rfl
  | _ => exact .completes _ rfl rfl

end Sys2Proof.Machine
end

