-- ==== Sys2Proof/Laws/PerInstr.lean ====
section
/-! SUPPORT. Statements for all instructions, one lemma per constructor. `EncodesRow`: the opcode table (R78) has a row
of the instruction's mnemonic, and that row selects the instruction's word. -/

namespace Sys2Proof.Laws.EncodesRow

/-- A row of the instruction's own mnemonic selects its word. -/
def Statement (i : Instr) : Prop := ∃ r ∈ opcodeTable, r.mnemonic = i.mnemonic ∧ r.selects (encode i) = true

theorem cls : Statement .cls := ⟨⟨"CLS", 0xFFFF, 0x00E0⟩, by decide, rfl, by decide⟩

theorem ret : Statement .ret := ⟨⟨"RET", 0xFFFF, 0x00EE⟩, by decide, rfl, by decide⟩

theorem jp (nnn : Nnn) : Statement (.jp nnn) :=
  ⟨⟨"JP_nnn", 0xF000, 0x1000⟩, by decide, rfl, (OpcodeRow.selects_high _ _ 1 rfl (by decide)).mpr (nibble_formatA 1 nnn (by omega))⟩

theorem call (nnn : Nnn) : Statement (.call nnn) :=
  ⟨⟨"CALL_nnn", 0xF000, 0x2000⟩, by decide, rfl, (OpcodeRow.selects_high _ _ 2 rfl (by decide)).mpr (nibble_formatA 2 nnn (by omega))⟩

theorem seImm (x : Reg) (nn : Byte) : Statement (.seImm x nn) :=
  ⟨⟨"SE_Vx__nn", 0xF000, 0x3000⟩, by decide, rfl, (OpcodeRow.selects_high _ _ 3 rfl (by decide)).mpr (nibble_formatXI 3 x nn (by omega))⟩

theorem sneImm (x : Reg) (nn : Byte) : Statement (.sneImm x nn) :=
  ⟨⟨"SNE_Vx__nn", 0xF000, 0x4000⟩, by decide, rfl, (OpcodeRow.selects_high _ _ 4 rfl (by decide)).mpr (nibble_formatXI 4 x nn (by omega))⟩

theorem seReg (x y : Reg) : Statement (.seReg x y) :=
  ⟨⟨"SE_Vx__Vy", 0xF00F, 0x5000⟩, by decide, rfl, (OpcodeRow.selects_highLow _ _ 5 0 rfl (by decide)).mpr (nibble_formatXY 5 x y 0 (by omega) (by omega))⟩

theorem ldImm (x : Reg) (nn : Byte) : Statement (.ldImm x nn) :=
  ⟨⟨"LD_Vx__nn", 0xF000, 0x6000⟩, by decide, rfl, (OpcodeRow.selects_high _ _ 6 rfl (by decide)).mpr (nibble_formatXI 6 x nn (by omega))⟩

theorem addImm (x : Reg) (nn : Byte) : Statement (.addImm x nn) :=
  ⟨⟨"ADD_Vx__nn", 0xF000, 0x7000⟩, by decide, rfl, (OpcodeRow.selects_high _ _ 7 rfl (by decide)).mpr (nibble_formatXI 7 x nn (by omega))⟩

theorem ldReg (x y : Reg) : Statement (.ldReg x y) :=
  ⟨⟨"LD_Vx__Vy", 0xF00F, 0x8000⟩, by decide, rfl, (OpcodeRow.selects_highLow _ _ 8 0 rfl (by decide)).mpr (nibble_formatXY 8 x y 0 (by omega) (by omega))⟩

theorem orReg (x y : Reg) : Statement (.orReg x y) :=
  ⟨⟨"OR_Vx__Vy", 0xF00F, 0x8001⟩, by decide, rfl, (OpcodeRow.selects_highLow _ _ 8 1 rfl (by decide)).mpr (nibble_formatXY 8 x y 1 (by omega) (by omega))⟩

theorem andReg (x y : Reg) : Statement (.andReg x y) :=
  ⟨⟨"AND_Vx__Vy", 0xF00F, 0x8002⟩, by decide, rfl, (OpcodeRow.selects_highLow _ _ 8 2 rfl (by decide)).mpr (nibble_formatXY 8 x y 2 (by omega) (by omega))⟩

theorem xorReg (x y : Reg) : Statement (.xorReg x y) :=
  ⟨⟨"XOR_Vx__Vy", 0xF00F, 0x8003⟩, by decide, rfl, (OpcodeRow.selects_highLow _ _ 8 3 rfl (by decide)).mpr (nibble_formatXY 8 x y 3 (by omega) (by omega))⟩

theorem addReg (x y : Reg) : Statement (.addReg x y) :=
  ⟨⟨"ADD_Vx__Vy", 0xF00F, 0x8004⟩, by decide, rfl, (OpcodeRow.selects_highLow _ _ 8 4 rfl (by decide)).mpr (nibble_formatXY 8 x y 4 (by omega) (by omega))⟩

theorem subReg (x y : Reg) : Statement (.subReg x y) :=
  ⟨⟨"SUB_Vx__Vy", 0xF00F, 0x8005⟩, by decide, rfl, (OpcodeRow.selects_highLow _ _ 8 5 rfl (by decide)).mpr (nibble_formatXY 8 x y 5 (by omega) (by omega))⟩

theorem shr (x y : Reg) : Statement (.shr x y) :=
  ⟨⟨"SHR_Vx", 0xF00F, 0x8006⟩, by decide, rfl, (OpcodeRow.selects_highLow _ _ 8 6 rfl (by decide)).mpr (nibble_formatXY 8 x y 6 (by omega) (by omega))⟩

theorem subn (x y : Reg) : Statement (.subn x y) :=
  ⟨⟨"SUBN_Vx__Vy", 0xF00F, 0x8007⟩, by decide, rfl, (OpcodeRow.selects_highLow _ _ 8 7 rfl (by decide)).mpr (nibble_formatXY 8 x y 7 (by omega) (by omega))⟩

theorem shl (x y : Reg) : Statement (.shl x y) :=
  ⟨⟨"SHL_Vx", 0xF00F, 0x800E⟩, by decide, rfl, (OpcodeRow.selects_highLow _ _ 8 14 rfl (by decide)).mpr (nibble_formatXY 8 x y 14 (by omega) (by omega))⟩

theorem sneReg (x y : Reg) : Statement (.sneReg x y) :=
  ⟨⟨"SNE_Vx__Vy", 0xF00F, 0x9000⟩, by decide, rfl, (OpcodeRow.selects_highLow _ _ 9 0 rfl (by decide)).mpr (nibble_formatXY 9 x y 0 (by omega) (by omega))⟩

theorem ldI (nnn : Nnn) : Statement (.ldI nnn) :=
  ⟨⟨"LD_I__nnn", 0xF000, 0xA000⟩, by decide, rfl, (OpcodeRow.selects_high _ _ 10 rfl (by decide)).mpr (nibble_formatA 10 nnn (by omega))⟩

theorem jpV0 (nnn : Nnn) : Statement (.jpV0 nnn) :=
  ⟨⟨"JP_V0__nnn", 0xF000, 0xB000⟩, by decide, rfl, (OpcodeRow.selects_high _ _ 11 rfl (by decide)).mpr (nibble_formatA 11 nnn (by omega))⟩

theorem rnd (x : Reg) (nn : Byte) : Statement (.rnd x nn) :=
  ⟨⟨"RND_Vx__nn", 0xF000, 0xC000⟩, by decide, rfl, (OpcodeRow.selects_high _ _ 12 rfl (by decide)).mpr (nibble_formatXI 12 x nn (by omega))⟩

theorem drw (x y : Reg) (n : Height) : Statement (.drw x y n) :=
  ⟨⟨"DRW_Vx__Vy__n", 0xF000, 0xD000⟩, by decide, rfl, (OpcodeRow.selects_high _ _ 13 rfl (by decide)).mpr ((nibble_formatXY 13 x y n.val (by omega) n.isLt).1)⟩

theorem skp (x : Reg) : Statement (.skp x) :=
  ⟨⟨"SKP_Vx", 0xF0FF, 0xE09E⟩, by decide, rfl, (OpcodeRow.selects_highByte _ _ 14 9 14 rfl (by decide)).mpr (nibble_formatXF 14 x 158 (by omega) (by omega))⟩

theorem sknp (x : Reg) : Statement (.sknp x) :=
  ⟨⟨"SKNP_Vx", 0xF0FF, 0xE0A1⟩, by decide, rfl, (OpcodeRow.selects_highByte _ _ 14 10 1 rfl (by decide)).mpr (nibble_formatXF 14 x 161 (by omega) (by omega))⟩

theorem ldVxDt (x : Reg) : Statement (.ldVxDt x) :=
  ⟨⟨"LD_Vx__DT", 0xF0FF, 0xF007⟩, by decide, rfl, (OpcodeRow.selects_highByte _ _ 15 0 7 rfl (by decide)).mpr (nibble_formatXF 15 x 7 (by omega) (by omega))⟩

theorem ldVxK (x : Reg) : Statement (.ldVxK x) :=
  ⟨⟨"LD_Vx__K", 0xF0FF, 0xF00A⟩, by decide, rfl, (OpcodeRow.selects_highByte _ _ 15 0 10 rfl (by decide)).mpr (nibble_formatXF 15 x 10 (by omega) (by omega))⟩

theorem ldDtVx (x : Reg) : Statement (.ldDtVx x) :=
  ⟨⟨"LD_DT__Vx", 0xF0FF, 0xF015⟩, by decide, rfl, (OpcodeRow.selects_highByte _ _ 15 1 5 rfl (by decide)).mpr (nibble_formatXF 15 x 21 (by omega) (by omega))⟩

theorem ldStVx (x : Reg) : Statement (.ldStVx x) :=
  ⟨⟨"LD_ST__Vx", 0xF0FF, 0xF018⟩, by decide, rfl, (OpcodeRow.selects_highByte _ _ 15 1 8 rfl (by decide)).mpr (nibble_formatXF 15 x 24 (by omega) (by omega))⟩

theorem addI (x : Reg) : Statement (.addI x) :=
  ⟨⟨"ADD_I__Vx", 0xF0FF, 0xF01E⟩, by decide, rfl, (OpcodeRow.selects_highByte _ _ 15 1 14 rfl (by decide)).mpr (nibble_formatXF 15 x 30 (by omega) (by omega))⟩

theorem ldF (x : Reg) : Statement (.ldF x) :=
  ⟨⟨"LD_F__Vx", 0xF0FF, 0xF029⟩, by decide, rfl, (OpcodeRow.selects_highByte _ _ 15 2 9 rfl (by decide)).mpr (nibble_formatXF 15 x 41 (by omega) (by omega))⟩

theorem ldB (x : Reg) : Statement (.ldB x) :=
  ⟨⟨"LD_B__Vx", 0xF0FF, 0xF033⟩, by decide, rfl, (OpcodeRow.selects_highByte _ _ 15 3 3 rfl (by decide)).mpr (nibble_formatXF 15 x 51 (by omega) (by omega))⟩

theorem storeRegs (x : Reg) : Statement (.storeRegs x) :=
  ⟨⟨"LD__I___Vx", 0xF0FF, 0xF055⟩, by decide, rfl, (OpcodeRow.selects_highByte _ _ 15 5 5 rfl (by decide)).mpr (nibble_formatXF 15 x 85 (by omega) (by omega))⟩

theorem loadRegs (x : Reg) : Statement (.loadRegs x) :=
  ⟨⟨"LD_Vx___I", 0xF0FF, 0xF065⟩, by decide, rfl, (OpcodeRow.selects_highByte _ _ 15 6 5 rfl (by decide)).mpr (nibble_formatXF 15 x 101 (by omega) (by omega))⟩

end Sys2Proof.Laws.EncodesRow
end

