-- ==== Sys2Proof/Laws/Step.lean ====
section
/-! SUPPORT. What a step can do, said once. -/

namespace Sys2Proof.Machine

theorem State.enabled_iff (s : State) : s.enabled = true ↔ s.Enabled := by
  simp only [State.enabled, State.Enabled, Bool.and_eq_true, decide_eq_true_eq, Bool.not_eq_true',
    Bool.and_eq_false_iff, decide_eq_false_iff_not, and_assoc]
  cases s.cancelled <;> simp

/-- The word `withFetchWord` and the fetch agree on: bytes at `pc` make the fetched word (R52). -/
theorem State.fetch_of_le (s : State) (h : s.machine.pc.toNat + 1 ≤ 4095) :
    s.fetch = some (wordOfBytes (s.readByte s.machine.pc.toNat) (s.readByte (s.machine.pc.toNat + 1))) := by
  rw [State.fetch, if_neg (by omega)]

theorem State.fetch_of_gt (s : State) (h : s.machine.pc.toNat + 1 > 4095) : s.fetch = none := by
  rw [State.fetch, if_pos h]

/-- A cycle, once: the fetch faults, or an instruction runs and is counted, or the word is unknown (R220). -/
theorem State.cycle_cases (s : State) :
    (s.fetch = none ∧ s.cycle = .next (s.raise .fetchOutOfBounds s.machine.pc)) ∨
    (∃ w i, s.fetch = some w ∧ decode w = .known i ∧ s.cycle = counted (exec i s)) ∨
    (∃ w v, s.fetch = some w ∧ decode w = .unknown v ∧ s.cycle = .next (s.raise .unknownOpcode v)) := by
  cases hf : s.fetch with
  | none => exact .inl ⟨rfl, by simp [State.cycle, hf]⟩
  | some w =>
    cases hd : decode w with
    | known i => exact .inr (.inl ⟨w, i, rfl, hd, by simp [State.cycle, hf, hd, execute]⟩)
    | unknown v =>
      refine .inr (.inr ⟨w, v, rfl, hd, ?_⟩)
      simp [State.cycle, hf, hd, execute, execUnknown, counted, State.countCycle]

/-- The core's turn, once (R221). -/
theorem coreStep_cases (s : State) :
    (s.Enabled ∧ s.cycleInFrame < s.config.ipf ∧ coreStep s = s.cycle) ∨
    (s.Enabled ∧ s.config.ipf ≤ s.cycleInFrame ∧ coreStep s = .next s.frameTick) ∨
    (¬ s.Enabled ∧ s.fault = none ∧ coreStep s = .next s) ∨
    (¬ s.Enabled ∧ ∃ f, s.fault = some f ∧ coreStep s = .fault (.halted f)) := by
  by_cases he : s.enabled = true
  · have hE := s.enabled_iff.mp he
    by_cases hd : s.cycleInFrame < s.config.ipf
    · exact .inl ⟨hE, hd, by simp [coreStep, he, State.cycleDue, hd]⟩
    · exact .inr (.inl ⟨hE, by omega, by simp [coreStep, he, State.cycleDue, hd]⟩)
  · have hE : ¬ s.Enabled := fun h => he (s.enabled_iff.mpr h)
    cases hf : s.fault with
    | none => exact .inr (.inr (.inl ⟨hE, rfl, by simp [coreStep, he, hf]⟩))
    | some f => exact .inr (.inr (.inr ⟨hE, f, rfl, by simp [coreStep, he, hf]⟩))

/-- A step, once: it is the core's turn or the host's. -/
theorem step_cases (s : State) :
    (∃ s', s.coreTurn s' ∧ step s = coreStep s') ∨ (∃ e s', s.hostTurn e s' ∧ step s = hostStep e s') := by
  cases h : s.turns with
  | nil => exact .inl ⟨s, .inl ⟨h, rfl⟩, by simp [step, h]⟩
  | cons t rest =>
    cases t with
    | core => exact .inl ⟨_, .inr ⟨rest, h, rfl⟩, by simp [step, h]⟩
    | host e => exact .inr ⟨e, _, ⟨rest, h, rfl⟩, by simp [step, h]⟩

theorem step_of_coreTurn {s s' : State} (h : s.coreTurn s') : step s = coreStep s' := by
  rcases h with ⟨h, rfl⟩ | ⟨rest, h, rfl⟩ <;> simp [step, h]

theorem step_of_hostTurn {s s' : State} {e : HostEvent} (h : s.hostTurn e s') : step s = hostStep e s' := by
  obtain ⟨rest, h, rfl⟩ := h
  simp [step, h]

/-- On the core's turn the state acted on is the state itself but for the plan. -/
theorem State.coreTurn_eq {s s' : State} (h : s.coreTurn s') : s' = { s with turns := s'.turns } := by
  rcases h with ⟨h, rfl⟩ | ⟨rest, h, rfl⟩ <;> rfl

theorem State.hostTurn_eq {s s' : State} {e : HostEvent} (h : s.hostTurn e s') : s' = { s with turns := s'.turns } := by
  obtain ⟨rest, h, rfl⟩ := h
  rfl

end Sys2Proof.Machine
end

