-- ==== Sys2Proof/Tests/Slice0.lean ====
section
/-! SUPPORT. Tests. The expected values are those of spec/95_test_vectors.md, named (F1, A34, …) in the
comment over each group, or are worked by hand from the rule named. Then a witness for the hypotheses of every statement that has some. -/

namespace Sys2Proof.Tests

open Sys2Proof Sys2Proof.Machine

/-! ### The checks of WellFormed refuse ill-formed terms (R6, R251, R38) -/

theorem test_wf_default : Config.default.wellFormed = true := by decide

theorem test_wf_font_base : { Config.default with fontBase := 0x1B1 }.wellFormed = false := by decide

theorem test_wf_clock_rate : { Config.default with clockRate := 0 }.wellFormed = false := by decide

theorem test_wf_frame_rate : { Config.default with frameRate := 0 }.wellFormed = false := by decide

theorem test_wf_ipf : { Config.default with clockRate := 59 }.wellFormed = false := by decide

theorem test_wf_program_limit :
    programFits (List.replicate 3584 0) = true ∧ programFits (List.replicate 3585 0) = false := by
  rw [programFits, programFits, List.length_replicate, List.length_replicate]
  decide

theorem test_wf_memory_order : Memory.wf Config.default [(0x301, 1), (0x300, 1)] = false := by decide

theorem test_wf_memory_end : Memory.wf Config.default [(4095, 1), (4096, 1)] = false := by decide

theorem test_wf_memory_reset_bytes :
    Memory.wf Config.default [(0x300, 0)] = false ∧ Memory.wf Config.default [(0x050, 0xF0)] = false := by decide

/-! ### Decoding: words bit by bit from the patterns of R78, and the words of 95 section 2.1 -/

theorem test_decode_bits_flow :
    decode 0b0000000011100000 = .known .cls ∧ decode 0b0000000011101110 = .known .ret ∧
    decode 0b0001000011100000 = .known (.jp 0x0E0) ∧ decode 0b0010101010111100 = .known (.call 0xABC) ∧
    decode 0b1011000100100011 = .known (.jpV0 0x123) := by decide

theorem test_decode_bits_skips :
    decode 0b0011101001111111 = .known (.seImm 10 0x7F) ∧ decode 0b0100101001111111 = .known (.sneImm 10 0x7F) ∧
    decode 0b0101101010110000 = .known (.seReg 10 11) ∧ decode 0b1001101010110000 = .known (.sneReg 10 11) ∧
    decode 0b1110001110011110 = .known (.skp 3) ∧ decode 0b1110001110100001 = .known (.sknp 3) := by decide

theorem test_decode_bits_immediate :
    decode 0b0110111100000001 = .known (.ldImm 15 0x01) ∧ decode 0b0111111011111111 = .known (.addImm 14 0xFF) ∧
    decode 0b1010000100100011 = .known (.ldI 0x123) ∧ decode 0b1100001100001111 = .known (.rnd 3 0x0F) ∧
    decode 0b1101000100101111 = .known (.drw 1 2 15) := by decide

theorem test_decode_bits_alu :
    decode 0b1000101010110000 = .known (.ldReg 10 11) ∧ decode 0b1000101010110001 = .known (.orReg 10 11) ∧
    decode 0b1000101010110010 = .known (.andReg 10 11) ∧ decode 0b1000101010110011 = .known (.xorReg 10 11) ∧
    decode 0b1000101010110100 = .known (.addReg 10 11) ∧ decode 0b1000101010110101 = .known (.subReg 10 11) ∧
    decode 0b1000101010110110 = .known (.shr 10 11) ∧ decode 0b1000101010110111 = .known (.subn 10 11) ∧
    decode 0b1000101010111110 = .known (.shl 10 11) := by decide

theorem test_decode_bits_misc :
    decode 0b1111001100000111 = .known (.ldVxDt 3) ∧ decode 0b1111001100001010 = .known (.ldVxK 3) ∧
    decode 0b1111001100010101 = .known (.ldDtVx 3) ∧ decode 0b1111001100011000 = .known (.ldStVx 3) ∧
    decode 0b1111001100011110 = .known (.addI 3) ∧ decode 0b1111001100101001 = .known (.ldF 3) ∧
    decode 0b1111001100110011 = .known (.ldB 3) ∧ decode 0b1111001101010101 = .known (.storeRegs 3) ∧
    decode 0b1111001101100101 = .known (.loadRegs 3) := by decide

theorem test_decode_unknown :
    decode 0x00E1 = .unknown 0x00E1 ∧ decode 0x0000 = .unknown 0x0000 ∧ decode 0x0123 = .unknown 0x0123 ∧
    decode 0x5AB1 = .unknown 0x5AB1 ∧ decode 0x9ABF = .unknown 0x9ABF ∧ decode 0x8AB8 = .unknown 0x8AB8 ∧
    decode 0x8ABF = .unknown 0x8ABF ∧ decode 0xE39F = .unknown 0xE39F ∧ decode 0xF300 = .unknown 0xF300 ∧
    decode 0xFFFF = .unknown 0xFFFF := by decide

/-- The first byte of a word lies at the lower address (R51). -/
theorem test_decode_bytes : decodeBytes [0xD1, 0x2F, 0x77] = some (.known (.drw 1 2 15), [0x77]) := by decide

theorem test_decode_table_word :
    decodeTableWord 16 0xD12F = some (.drw 1 2 15) ∧ decodeTableWord 16 0x5121 = none := by decide

/-! ### One step on a small state -/

/-- The reset state with the given registers. -/
def regs (l : List (Reg × Byte)) : State :=
  { State.reset with machine := l.foldl (fun m p => m.setReg p.1 p.2) State.reset.machine }

/-- With `I`. -/
def atI (s : State) (w : Word) : State := { s with machine := s.machine.setI w }

/-- With `pc`. -/
def atPc (s : State) (w : Word) : State := { s with machine := s.machine.setPc w }

/-- With bytes in memory. -/
def bytesAt (s : State) (a : Nat) (l : List Byte) : State :=
  { s with machine := s.machine.setMemory (Memory.writeList s.config s.machine.memory a l) }

/-- With a key down. -/
def press (s : State) (k : Key) : State := { s with machine := s.machine.setKey k true }

/-- With `pending`. -/
def waiting (s : State) (k : Key) : State := { s with machine := s.machine.setPending (some k) }

/-- With `sp`. -/
def atSp (s : State) (n : Fin 17) : State := { s with machine := { s.machine with sp := n } }

/-- With a pixel on. -/
def lit (s : State) (x y : Nat) : State := { s with machine := s.machine.setScreen (s.machine.screen.toggle x y) }

/-- With the host's plan. -/
def planned (s : State) (l : List Turn) : State := { s with turns := l }

/-- With a set latch. -/
def halted (s : State) (c : FaultCause) (info : Word) : State := s.raise c info

/-- The state an outcome goes on with. -/
def nextOf (r : Result) : Option State :=
  match r with
  | .next t => some t
  | .fault _ => none
  | .refused _ => none

/-- What `f` reads in the state after one step that runs the word. -/
def ran {α : Type} (s : State) (w : Nat) (f : State → α) : Option α := (nextOf (step (s.withFetchWord 16 w))).map f

/-- `pc`. -/
def pcOf (t : State) : Word := t.machine.pc

/-- A register and `VF`. -/
def regAndFlag (x : Reg) (t : State) : Byte × Byte := (t.machine.reg x, t.machine.reg 15)

/-- Three bytes of memory. -/
def threeBytes (a : Nat) (t : State) : List Byte := [t.readByte a, t.readByte (a + 1), t.readByte (a + 2)]

/-- The latch and `pc`. -/
def faultAndPc (t : State) : Option FaultRecord × Word := (t.fault, t.machine.pc)

-- Control flow: F1, F4, F7, F6, F9, F8, F10, F13, F14, F17.

theorem test_jp : ran State.reset 0x1ABC pcOf = some 0x0ABC := by decide

theorem test_jpV0 : ran (regs [(0, 0xFF)]) 0xBFFF pcOf = some 0x10FE := by decide

theorem test_call : ran (atSp State.reset 15) 0x2300 (fun t => (t.machine.stack[15], t.machine.sp, t.machine.pc)) =
    some (0x0202, 16, 0x0300) := by decide

theorem test_call_overflow : ran (atSp State.reset 16) 0x2300 faultAndPc =
    some (some ⟨.stackOverflow, 0x0200⟩, 0x0200) := by decide

theorem test_ret :
    ran (atSp { State.reset with machine := { State.reset.machine with stack := Vector.replicate 16 0x0ABD } } 1) 0x00EE
      (fun t => (t.machine.sp, t.machine.pc, t.machine.stack[0])) = some (0, 0x0ABD, 0x0ABD) := by decide

theorem test_ret_underflow : ran State.reset 0x00EE faultAndPc =
    some (some ⟨.stackUnderflow, 0x0200⟩, 0x0200) := by decide

theorem test_seImm : ran (regs [(3, 0x2A)]) 0x332A pcOf = some 0x0204 := by decide

theorem test_sneImm : ran (regs [(3, 0x2A)]) 0x432B pcOf = some 0x0204 := by decide

theorem test_seReg : ran (regs [(1, 7), (2, 7)]) 0x5120 pcOf = some 0x0204 := by decide

theorem test_sneReg : ran (regs [(1, 7), (2, 8)]) 0x9120 pcOf = some 0x0204 := by decide

-- Keys: K1, K6, K4, K7, K8.

theorem test_skp : ran (press (regs [(2, 5)]) 5) 0xE29E pcOf = some 0x0204 := by decide

theorem test_skp_range : ran (regs [(2, 16)]) 0xE29E faultAndPc =
    some (some ⟨.keyIndexOutOfRange, 0x0010⟩, 0x0200) := by decide

theorem test_sknp : ran (regs [(2, 5)]) 0xE2A1 pcOf = some 0x0204 := by decide

theorem test_sknp_range : ran (regs [(2, 0xFF)]) 0xE2A1 faultAndPc =
    some (some ⟨.keyIndexOutOfRange, 0x00FF⟩, 0x0200) := by decide

theorem test_ldVxK_commit : ran (press (waiting State.reset 3) 9) 0xFA0A
    (fun t => (t.machine.reg 10, t.machine.pending, t.machine.pc)) = some (3, none, 0x0202) := by decide

theorem test_ldVxK_first : ran (press (press State.reset 7) 5) 0xF00A
    (fun t => (t.machine.pending, t.machine.pc)) = some (some 5, 0x0200) := by decide

-- Register, immediate, index: I2, I5, I6, I8, I12, I15.

theorem test_ldImm : ran State.reset 0x6FAB (regAndFlag 15) = some (0xAB, 0xAB) := by decide

theorem test_addImm : ran (regs [(0, 0xFF), (15, 1)]) 0x7002 (regAndFlag 0) = some (0x01, 1) := by decide

theorem test_ldI : ran State.reset 0xA2F0 (fun t => t.machine.i) = some 0x02F0 := by decide

/-- I8, one draw counted (R227). -/
theorem test_rnd : ∃ t, execRnd 0 0x00 (regs [(0, 0x55)]) = .next t ∧ t.machine.reg 0 = 0 ∧ t.draws = 1 :=
  ⟨_, rfl, by simp [MachineState.reg, MachineState.setReg, MachineState.advance, MachineState.setPc], rfl⟩

theorem test_addI : ran (atI (regs [(4, 0x02)]) 0xFFFF) 0xF41E (fun t => t.machine.i) = some 0x0001 := by decide

theorem test_ldF : ran (regs [(1, 0xFF)]) 0xF129 (fun t => t.machine.i) = some 0x054B := by decide

-- ALU: A1, A2, A3, A4, A9, A34, A12, A27, A15, A29, A18, A37, A21, A33.

theorem test_ldReg : ran (regs [(2, 0x7C), (15, 0x77)]) 0x8120 (regAndFlag 1) = some (0x7C, 0x77) := by decide

theorem test_orReg : ran (regs [(1, 0xF0), (2, 0x0F), (15, 0x77)]) 0x8121 (regAndFlag 1) = some (0xFF, 0x77) := by
  decide

theorem test_andReg : ran (regs [(1, 0xF3), (2, 0x3C), (15, 0x77)]) 0x8122 (regAndFlag 1) = some (0x30, 0x77) := by
  decide

theorem test_xorReg : ran (regs [(1, 0xF3), (2, 0x3C), (15, 0x77)]) 0x8123 (regAndFlag 1) = some (0xCF, 0x77) := by
  decide

theorem test_addReg : ran (regs [(1, 0x80), (2, 0x7F), (15, 0x77)]) 0x8124 (regAndFlag 1) = some (0xFF, 0) := by
  decide

theorem test_addReg_flag_operand : ran (regs [(1, 0xFF), (15, 1)]) 0x81F4 (regAndFlag 1) = some (0x00, 1) := by
  decide

theorem test_subReg : ran (regs [(1, 0x04), (2, 0x05)]) 0x8125 (regAndFlag 1) = some (0xFF, 0) := by decide

theorem test_subReg_into_flag : ran (regs [(15, 5), (2, 3)]) 0x8F25 (regAndFlag 15) = some (1, 1) := by decide

theorem test_subn : ran (regs [(1, 0x05), (2, 0x04)]) 0x8127 (regAndFlag 1) = some (0xFF, 0) := by decide

theorem test_subn_into_flag : ran (regs [(15, 3), (2, 5)]) 0x8F27 (regAndFlag 15) = some (1, 1) := by decide

theorem test_shr : ran (regs [(1, 0x05), (2, 0x08)]) 0x8126 (regAndFlag 1) = some (0x02, 1) := by decide

theorem test_shr_uses_vy :
    ran { regs [(1, 0xFF), (2, 0x04)] with config := { Config.default with shiftUsesVy := true } } 0x8126
      (regAndFlag 1) = some (0x02, 0) := by decide

theorem test_shl : ran (regs [(1, 0x81)]) 0x812E (regAndFlag 1) = some (0x02, 1) := by decide

theorem test_shl_into_flag : ran (regs [(15, 0x7F)]) 0x8F2E (regAndFlag 15) = some (0, 0) := by decide

-- Loads and stores: M1, M4, M5, M6, M13, M14.

theorem test_storeRegs : ran (atI (regs [(0, 0x11), (1, 0x22), (2, 0x33)]) 0x300) 0xF155
    (fun t => (threeBytes 0x300 t, t.machine.i)) = some ([0x11, 0x22, 0x00], 0x300) := by decide

theorem test_storeRegs_range : ran (atI State.reset 0x0FF1) 0xFF55 faultAndPc =
    some (some ⟨.memoryOutOfBounds, 0x0FF1⟩, 0x0200) := by decide

theorem test_loadRegs : ran (bytesAt (atI (regs [(3, 9)]) 0x300) 0x300 [2, 5, 4, 7]) 0xF265
    (fun t => (t.machine.reg 0, t.machine.reg 1, t.machine.reg 2, t.machine.reg 3)) = some (2, 5, 4, 9) := by
  decide

theorem test_loadRegs_range : ran (atI State.reset 0x1000) 0xF065 faultAndPc =
    some (some ⟨.memoryOutOfBounds, 0x1000⟩, 0x0200) := by decide

theorem test_ldB : ran (atI (regs [(0, 0x7B)]) 0x0FFD) 0xF033 (threeBytes 0x0FFD) = some [1, 2, 3] := by decide

theorem test_ldB_range : ran (atI State.reset 0x0FFE) 0xF033 faultAndPc =
    some (some ⟨.memoryOutOfBounds, 0x0FFE⟩, 0x0200) := by decide

-- Timers: T1, T2, T3, T6.

theorem test_ldVxDt : ran { State.reset with machine := State.reset.machine.setDt 0x3C } 0xF307
    (fun t => (t.machine.reg 3, t.machine.dt)) = some (0x3C, 0x3C) := by decide

theorem test_ldDtVx : ran (regs [(3, 0x3C)]) 0xF315 (fun t => (t.machine.dt, t.machine.st)) = some (0x3C, 0) := by
  decide

theorem test_ldStVx : ran (regs [(0, 0x0A)]) 0xF018 (fun t => (t.machine.dt, t.machine.st)) = some (0, 0x0A) := by
  decide

theorem test_frame_tick :
    (State.frameTick { State.reset with machine := (State.reset.machine.setDt 0).setSt 0xFF }).machine.dt = 0 ∧
    (State.frameTick { State.reset with machine := (State.reset.machine.setDt 0).setSt 0xFF }).soundOut = 0xFE := by
  decide

-- Display: G1, G9, G4, and the row order of R162 with P4's corner.

theorem test_cls : ran (lit (lit State.reset 5 0) 63 31) 0x00E0 (fun t => decide (t.machine.screen = Screen.blank)) =
    some true := by decide

theorem test_drw_collision : ran (lit (bytesAt (atI State.reset 0x300) 0x300 [0xC0]) 0 0) 0xD121
    (fun t => (t.machine.screen.pixel 0 0, t.machine.screen.pixel 1 0, t.machine.reg 15)) = some (false, true, 1) := by
  decide

theorem test_drw_clipped : ran (bytesAt (atI (regs [(1, 62), (2, 31)]) 0x300) 0x300 [0x83, 0xFF]) 0xD122
    (fun t => (t.machine.screen.pixel 62 31, t.machine.screen.pixel 63 31, t.machine.screen.pixel 0 31,
      t.machine.reg 15)) = some (true, false, false, 0) := by decide

-- Faults and fetch: X1, X2, X4, X5.

theorem test_unknown : ran State.reset 0x5121 faultAndPc = some (some ⟨.unknownOpcode, 0x5121⟩, 0x0200) := by
  decide

theorem test_fetch_out_of_bounds : (nextOf (step (atPc State.reset 0x0FFF))).map faultAndPc =
    some (some ⟨.fetchOutOfBounds, 0x0FFF⟩, 0x0FFF) := by decide

theorem test_reset_runs_into_zero : (nextOf (step State.reset)).map faultAndPc =
    some (some ⟨.unknownOpcode, 0x0000⟩, 0x0200) := by decide

theorem test_odd_fetch : ran (atPc State.reset 0x0201) 0x6009 (fun t => (t.machine.reg 0, t.machine.pc, t.cycleInFrame)) =
    some (9, 0x0203, 1) := by decide

-- Reset (R39, R250) and the host: K9's second half, P1's load, X8.

theorem test_reset_values :
    (State.reset.machine.pc, State.reset.machine.sp, State.reset.machine.i, State.reset.progId.value) = (0x0200, 0, 0, 0) ∧
    State.reset.readByte 0x4F = 0 ∧ State.reset.readByte 0x50 = 0xF0 ∧ State.reset.readByte 0x9F = 0x80 ∧
    State.reset.readByte 0xA0 = 0 := by decide

theorem test_program_load : (nextOf (hostStep (.programLoad [0x60, 0x05, 0x70, 0x03] ⟨7⟩) State.reset)).map
    (fun t => (t.fetch, t.readByte 0x203, t.progId)) = some (some 0x6005, 0x03, ⟨7⟩) := by decide

theorem test_snapshot_of_another_program :
    HostEvent.reply (.snapshotLoad ⟨State.reset.machine, ⟨1⟩⟩) State.reset = .adopted false := by decide

/-! ### Witnesses: for each statement with hypotheses a state and operands that meet them all -/

/-- The state with the word stored at `pc`. -/
def holding (s : State) (w : Nat) : State := s.withFetchWord 16 w

/-- A step that goes on, as an equation. -/
theorem exists_next {r : Result} {f : State → Bool} (h : (nextOf r).map f = some true) :
    ∃ t, r = .next t ∧ f t = true := by
  cases r <;> simp_all [nextOf]

theorem witness_encoding_clauses :
    opNibble 0x1ABC = 0x1 ∧ opNibble 0x2300 = 0x2 ∧ opNibble 0x332A = 0x3 ∧ opNibble 0x432A = 0x4 ∧
    (opNibble 0x5120 = 0x5 ∧ fieldN 0x5120 = 0) ∧ (opNibble 0x5121 = 0x5 ∧ fieldN 0x5121 ≠ 0) ∧
    opNibble 0x6005 = 0x6 ∧ opNibble 0x7003 = 0x7 ∧ (opNibble 0x8AB4 = 0x8 ∧ fieldN 0x8AB4 = 0x4) ∧
    (opNibble 0x9120 = 0x9 ∧ fieldN 0x9120 = 0) ∧ opNibble 0xA123 = 0xA ∧ opNibble 0xB123 = 0xB ∧
    opNibble 0xC30F = 0xC ∧ opNibble 0xD12F = 0xD ∧ (opNibble 0xE39E = 0xE ∧ fieldNn 0xE39E = 0x9E) ∧
    (opNibble 0xF30A = 0xF ∧ fieldNn 0xF30A = 0x0A) := by decide

theorem witness_DecoderAgreesWithTable :
    decode 0x8AB4 = .known (.addReg 10 11) ∧ decode 0x5AB1 = .unknown 0x5AB1 ∧
    ⟨"CLS", 0xFFFF, 0x00E0⟩ ∈ opcodeTable ∧ OpcodeRow.selects ⟨"CLS", 0xFFFF, 0x00E0⟩ 0x00E0 = true := by decide

/-- An enabled core at the end of memory, with the last fetch that succeeds, and with a word that is unknown. -/
theorem witness_CycleFetchesDecodesExecutes :
    (∃ s : State, s.coreTurn s ∧ s.Enabled ∧ s.cycleInFrame < s.config.ipf ∧ s.machine.pc.toNat + 1 > 4095) ∧
    (∃ s : State, s.coreTurn s ∧ s.Enabled ∧ s.cycleInFrame < s.config.ipf ∧ s.machine.pc.toNat + 1 = 4095 ∧
      decodeBytes [s.readByte s.machine.pc.toNat, s.readByte (s.machine.pc.toNat + 1)] = some (.known (.ldImm 0 7), []) ∧
      ∃ t, exec (.ldImm 0 7) s = .next t) ∧
    (∃ s : State, s.coreTurn s ∧ s.Enabled ∧ s.cycleInFrame < s.config.ipf ∧ s.machine.pc.toNat + 1 ≤ 4095 ∧
      decodeBytes [s.readByte s.machine.pc.toNat, s.readByte (s.machine.pc.toNat + 1)] =
        some (.unknown 0x0000, [])) := by
  refine ⟨⟨atPc State.reset 4095, .inl ⟨rfl, rfl⟩, ⟨rfl, rfl, by decide⟩, by decide, by decide⟩, ?_, ?_⟩
  · exact ⟨holding (atPc State.reset 4094) 0x6007, .inl ⟨rfl, rfl⟩, ⟨rfl, rfl, by decide⟩, by decide, by decide,
      by decide, _, rfl⟩
  · exact ⟨State.reset, .inl ⟨rfl, rfl⟩, ⟨rfl, rfl, by decide⟩, by decide, by decide, by decide⟩

/-- A core whose frame is done. -/
def frameDone : State := { State.reset with cycleInFrame := 10 }

theorem witness_TickCountsDownAndPublishes :
    frameDone.coreTurn frameDone ∧ frameDone.Enabled ∧ frameDone.config.ipf ≤ frameDone.cycleInFrame :=
  ⟨.inl ⟨rfl, rfl⟩, ⟨rfl, rfl, by decide⟩, by decide⟩

theorem witness_DisabledCoreStandsStill :
    (∃ s : State, s.coreTurn s ∧ ¬ s.Enabled ∧ s.fault = none ∧ s.paused = true) ∧
    (∃ s : State, s.coreTurn s ∧ ¬ s.Enabled ∧ s.fault = none ∧ s.cancelled = true) ∧
    (∃ (s : State) (f : FaultRecord), s.coreTurn s ∧ ¬ s.Enabled ∧ s.fault = some f) :=
  ⟨⟨State.reset.setPause true, .inl ⟨rfl, rfl⟩, fun h => absurd h.2.1 (by decide), rfl, rfl⟩,
    ⟨State.reset.cancel, .inl ⟨rfl, rfl⟩, fun h => h.2.2 ⟨rfl, rfl⟩, rfl, rfl⟩,
    ⟨halted State.reset .stackUnderflow 0x200, _, .inl ⟨rfl, rfl⟩, fun h => absurd h.1 (by decide), rfl⟩⟩

theorem witness_EnabledCoreProgresses :
    State.reset.coreTurn State.reset ∧ State.reset.Enabled ∧ 1 ≤ State.reset.config.ipf :=
  ⟨.inl ⟨rfl, rfl⟩, ⟨rfl, rfl, by decide⟩, by decide⟩

/-- A program that jumps to itself. -/
def spinState : State := holding State.reset 0x1200

theorem witness_FramesAreRegular :
    spinState.turns = [] ∧ spinState.paused = false ∧ spinState.cancelled = false ∧
    spinState.cycleInFrame ≤ spinState.config.ipf ∧
    ∃ t : State, Host.Core.run Sys2Proof.core 2 spinState = .next t ∧ t.fault = none := by
  refine ⟨rfl, rfl, rfl, by decide, ?_⟩
  obtain ⟨t, h, hf⟩ := exists_next (r := Host.Core.run Sys2Proof.core 2 spinState) (f := fun t => decide (t.fault = none))
    (by decide)
  exact ⟨t, h, by simpa using hf⟩

theorem witness_SpinChangesOnlyTheFrame :
    spinState.coreTurn spinState ∧ spinState.Enabled ∧ spinState.cycleInFrame < spinState.config.ipf ∧
    spinState.spinning = true :=
  ⟨.inl ⟨rfl, rfl⟩, ⟨rfl, rfl, by decide⟩, by decide, by decide⟩

theorem frameDone_inv : frameDone.Inv := by constructor <;> decide

theorem witness_StepKeepsInv : frameDone.Inv ∧ ∃ t, step frameDone = .next t := ⟨frameDone_inv, _, rfl⟩

/-- Halted by a fetch at the end of memory; the host's cancel comes next. -/
def haltedAtEnd : State := planned (halted (atPc State.reset 4095) .fetchOutOfBounds 4095) [.host .cancel]

theorem witness_StepKeepsFaultExplained : haltedAtEnd.FaultExplained ∧ haltedAtEnd.fault ≠ none ∧
    ∃ t, step haltedAtEnd = .next t := by
  refine ⟨?_, by decide, _, rfl⟩
  intro f hf
  obtain rfl : ⟨.fetchOutOfBounds, 4095⟩ = f := Option.some.inj hf
  exact ⟨by decide, rfl⟩

theorem witness_CanonicalMemoriesAreEqual :
    Memory.wf Config.default [(0x50, 0), (4095, 7)] = true ∧
    ∀ a, a < 4096 → Memory.read Config.default [(0x50, 0), (4095, 7)] a =
      Memory.read Config.default [(0x50, 0), (4095, 7)] a :=
  ⟨by decide, fun _ _ => rfl⟩

theorem witness_FaultsArePrecise :
    ∃ t : State, State.reset.fault = none ∧ exec .ret State.reset = .next t ∧ t.fault ≠ none :=
  ⟨_, rfl, rfl, by decide⟩

/-- What `f` says of the state after an instruction. -/
theorem exec_answers {i : Instr} {s : State} {f : State → Bool} (h : (nextOf (exec i s)).map f = some true) :
    ∃ t, exec i s = .next t ∧ f t = true := exists_next h

theorem witness_AccessMatrixOfWrites :
    (∃ t, exec (.ldB 0) (atI (regs [(0, 7)]) 0x300) = .next t ∧
      decide (t.readByte 0x302 ≠ (atI (regs [(0, 7)]) 0x300).readByte 0x302) = true) ∧
    (∃ t, exec .cls (lit State.reset 5 0) = .next t ∧
      decide (t.machine.screen ≠ (lit State.reset 5 0).machine.screen) = true) ∧
    (∃ t, exec (.call 0x300) State.reset = .next t ∧
      decide (t.machine.stack ≠ State.reset.machine.stack ∧ t.machine.sp ≠ State.reset.machine.sp) = true) ∧
    (∃ t, exec (.ldI 0x300) State.reset = .next t ∧ decide (t.machine.i ≠ State.reset.machine.i) = true) ∧
    (∃ t, exec (.ldDtVx 0) (regs [(0, 7)]) = .next t ∧ decide (t.machine.dt ≠ (regs [(0, 7)]).machine.dt) = true) ∧
    (∃ t, exec (.ldStVx 0) (regs [(0, 7)]) = .next t ∧ decide (t.machine.st ≠ (regs [(0, 7)]).machine.st) = true) ∧
    (∃ t, exec (.ldVxK 0) (press State.reset 5) = .next t ∧
      decide (t.machine.pending ≠ (press State.reset 5).machine.pending) = true) :=
  ⟨exec_answers (by decide), exec_answers (by decide +kernel), exec_answers (by decide +kernel),
    exec_answers (by decide), exec_answers (by decide +kernel), exec_answers (by decide +kernel),
    exec_answers (by decide)⟩

theorem witness_RegistersChangeOnlyAsNamed :
    ∃ t, exec (.addReg 1 2) (regs [(1, 0xFF), (2, 1)]) = .next t ∧
      t.machine.reg 1 ≠ (regs [(1, 0xFF), (2, 1)]).machine.reg 1 ∧ writesFlag (.addReg 1 2) ∧
      (regs [(1, 0xFF), (2, 1)]).fault = none ∧ t.fault = none :=
  ⟨_, rfl, by decide, .inl ⟨1, 2, .inl rfl⟩, rfl, rfl⟩

theorem witness_ConfigIsConstant : ∃ t, step State.reset = .next t :=
  (exists_next (f := fun _ => true) (by decide)).imp fun _ h => h.1

theorem witness_OnlyLoadsClearTheLatch :
    (∃ f t, haltedAtEnd.fault = some f ∧ step haltedAtEnd = .next t ∧ t.fault = some f) ∧
    (∃ s f t, s = planned haltedAtEnd [.host (.snapshotLoad ⟨State.reset.machine, ⟨0⟩⟩)] ∧ s.fault = some f ∧
      step s = .next t ∧ t.fault = none) ∧
    (∃ s f t, s = planned haltedAtEnd [.host (.programLoad [] ⟨1⟩)] ∧ s.fault = some f ∧
      step s = .next t ∧ t.fault = none) :=
  ⟨⟨_, _, rfl, rfl, rfl⟩, ⟨_, _, _, rfl, rfl, rfl, rfl⟩, ⟨_, _, _, rfl, rfl, rfl, rfl⟩⟩

theorem witness_OutsideEventsLeaveControlFlow :
    (∀ snap, HostEvent.keyDown 3 ≠ .snapshotLoad snap) ∧ (∀ b id, HostEvent.keyDown 3 ≠ .programLoad b id) ∧
    ∃ t, hostStep (.keyDown 3) State.reset = .next t :=
  ⟨fun _ => nofun, fun _ _ => nofun, _, rfl⟩

theorem witness_CallPushesReturnAddress :
    (atSp State.reset 15).machine.sp.val < 16 ∧ (atSp State.reset 16).machine.sp.val = 16 := by decide

theorem witness_ReturnPopsAddress :
    0 < (atSp State.reset 1).machine.sp.val ∧ (atSp State.reset 0).machine.sp.val = 0 := by decide

theorem witness_ReturnUndoesCall : (atSp State.reset 15).machine.sp.val < 16 := by decide

theorem witness_SkipsOnKey :
    ((regs [(2, 15)]).machine.reg 2).toNat = (15 : Key).val ∧ ((regs [(2, 16)]).machine.reg 2).toNat > 15 ∧
    (0x0010 : Word).toNat = ((regs [(2, 16)]).machine.reg 2).toNat := by decide

theorem witness_KeyWaitHasTwoPhases :
    (State.reset.machine.pending = none ∧ ∀ k, State.reset.machine.keyDown k = false) ∧
    ((press State.reset 15).machine.pending = none ∧ (press State.reset 15).machine.keyDown 15 = true ∧
      ∀ j, j < 15 → (press State.reset 15).machine.keyDown j = false) ∧
    ((press (waiting State.reset 0) 0).machine.pending = some 0 ∧
      (press (waiting State.reset 0) 0).machine.keyDown 0 = true) ∧
    ((waiting State.reset 0).machine.pending = some 0 ∧ (waiting State.reset 0).machine.keyDown 0 = false) := by
  decide

/-- `FA0A` at `pc` with key 5 down, and the plan of S9. -/
def keyTap : State := planned (holding (press State.reset 5) 0xFA0A) [.core, .host (.keyUp 5), .core]

theorem witness_KeyTapCommitsAfterRelease :
    keyTap.turns = [.core, .host (.keyUp 5), .core] ∧ keyTap.fault = none ∧ keyTap.paused = false ∧
    keyTap.cancelled = false ∧ keyTap.cycleInFrame + 1 < keyTap.config.ipf ∧ keyTap.fetch = some 0xFA0A ∧
    decode 0xFA0A = .known (.ldVxK 10) ∧ keyTap.machine.pending = none ∧ keyTap.machine.keyDown 5 = true ∧
    (∀ j, j < 5 → keyTap.machine.keyDown j = false) := by decide

theorem witness_PointsAtGlyph :
    { State.reset with config := { Config.default with fontBase := 0x1B0 } }.config.wellFormed = true ∧
    { State.reset with config := { Config.default with fontBase := 0 } }.config.wellFormed = true := by decide

theorem witness_ShiftsSetTheBitShiftedOut :
    (0x05 : Byte) = (regs [(1, 5), (2, 8)]).machine.reg
      (if (regs [(1, 5), (2, 8)]).config.shiftUsesVy = true then 2 else 1) ∧
    (0x08 : Byte) = (regs [(1, 5), (2, 8)]).machine.reg
      (if { Config.default with shiftUsesVy := true }.shiftUsesVy = true then 2 else 1) := by decide

theorem witness_StoresRegisterBlock :
    (atI State.reset 0x0FF0).machine.i.toNat + (15 : Reg).val = 4095 ∧
    (atI State.reset 0x0FF1).machine.i.toNat + (15 : Reg).val = 4096 := by decide

theorem witness_LoadsRegisterBlock :
    (atI State.reset 0x0FFF).machine.i.toNat + (0 : Reg).val = 4095 ∧
    (atI State.reset 0x1000).machine.i.toNat + (0 : Reg).val = 4096 := by decide

theorem witness_StoresDecimalDigits :
    (atI State.reset 0x0FFD).machine.i.toNat + 2 = 4095 ∧ (atI State.reset 0x0FFE).machine.i.toNat + 2 = 4096 := by
  decide

theorem witness_LoadUndoesStore : (atI State.reset 0x0FF0).machine.i.toNat + (15 : Reg).val ≤ 4095 := by decide

theorem witness_StoresAreFetched :
    1 ≤ (1 : Reg).val ∧ (atI (atPc State.reset 0x0FFC) 0x0FFE).machine.i.toNat + (1 : Reg).val = 4095 ∧
    (atI (atPc State.reset 0x0FFC) 0x0FFE).machine.i.toNat =
      (atI (atPc State.reset 0x0FFC) 0x0FFE).machine.pc.toNat + 2 := by decide

/-- A draw of one row at the last address of memory onto a lit pixel; the same where the sprite is empty. -/
theorem witness_DrawXorsSprite :
    ((0 : Height).val = 0 ∨ (atI State.reset 0xFFFF).machine.i.toNat + (0 : Height).val - 1 ≤ 4095) ∧
    (atI State.reset 0x0FFF).machine.i.toNat + (1 : Height).val - 1 = 4095 ∧
    ((2 : Height).val ≥ 1 ∧ (atI State.reset 0x0FFF).machine.i.toNat + (2 : Height).val - 1 > 4095) ∧
    (∃ px py, px ≤ 63 ∧ py ≤ 31 ∧
      (lit (bytesAt (atI State.reset 0x0FFF) 0x0FFF [0x80]) 0 0).machine.screen.pixel px py = true ∧
      (lit (bytesAt (atI State.reset 0x0FFF) 0x0FFF [0x80]) 0 0).spriteBit 0 0 1 px py = true) ∧
    (∀ px py, px ≤ 63 → py ≤ 31 → State.reset.machine.screen.pixel px py = true →
      State.reset.spriteBit 0 0 1 px py = false) := by
  refine ⟨.inl rfl, by decide, by decide, ⟨0, 0, by decide, by decide, by decide, by decide +kernel⟩, ?_⟩
  intro px py _ hy h
  simp [State.reset, State.fresh, MachineState.fresh, Screen.pixel, Screen.blank] at h

theorem witness_DrawTwiceRestores :
    (0 : Reg) ≠ 15 ∧ (1 : Reg) ≠ 15 ∧
    ((1 : Height).val = 0 ∨ (bytesAt (atI State.reset 0x0FFF) 0x0FFF [0x80]).machine.i.toNat + (1 : Height).val - 1 ≤ 4095) ∧
    ∃ px py, px ≤ 63 ∧ py ≤ 31 ∧ (bytesAt (atI State.reset 0x0FFF) 0x0FFF [0x80]).machine.screen.pixel px py = false ∧
      (bytesAt (atI State.reset 0x0FFF) 0x0FFF [0x80]).spriteBit
        ((bytesAt (atI State.reset 0x0FFF) 0x0FFF [0x80]).machine.reg 0).toNat
        ((bytesAt (atI State.reset 0x0FFF) 0x0FFF [0x80]).machine.reg 1).toNat (1 : Height).val px py = true :=
  ⟨by decide, by decide, by decide, 0, 0, by decide, by decide, by decide, by decide +kernel⟩

theorem witness_KeyEventsWriteOneKey :
    (∃ s s' : State, s.hostTurn (.keyDown 15) s' ∧ s'.fault = none) ∧
    (∃ s s' : State, s.hostTurn (.keyUp 15) s' ∧ s'.fault = none) ∧
    (∃ s s' : State, (s.hostTurn (.keyDown 15) s' ∨ s.hostTurn (.keyUp 15) s') ∧ s'.fault ≠ none) :=
  ⟨⟨planned State.reset [.host (.keyDown 15)], _, ⟨[], rfl, rfl⟩, rfl⟩,
    ⟨planned (press State.reset 15) [.host (.keyUp 15)], _, ⟨[], rfl, rfl⟩, rfl⟩,
    ⟨planned haltedAtEnd [.host (.keyDown 15)], _, .inl ⟨[], rfl, rfl⟩, by decide⟩⟩

theorem witness_PauseAndCancelSetTheirFlag :
    (∃ s s' : State, s.hostTurn (.setPause true) s') ∧ (∃ s s' : State, s.hostTurn (.setPause false) s') ∧
    (∃ s s' : State, s.hostTurn .cancel s') :=
  ⟨⟨planned State.reset [.host (.setPause true)], _, [], rfl, rfl⟩,
    ⟨planned State.reset [.host (.setPause false)], _, [], rfl, rfl⟩,
    ⟨planned State.reset [.host .cancel], _, [], rfl, rfl⟩⟩

theorem witness_ExportIsInert : ∃ s s' : State, s.hostTurn .snapshotExport s' :=
  ⟨planned State.reset [.host .snapshotExport], _, [], rfl, rfl⟩

theorem witness_SnapshotLoadNeedsIdentity :
    (∃ (s s' : State) (snap : Snapshot), s.hostTurn (.snapshotLoad snap) s' ∧
      Memory.wf s.config snap.machine.memory = true ∧ snap.progId = s.progId) ∧
    (∃ (s s' : State) (snap : Snapshot), s.hostTurn (.snapshotLoad snap) s' ∧
      Memory.wf s.config snap.machine.memory = true ∧ snap.progId ≠ s.progId) :=
  ⟨⟨planned State.reset [.host (.snapshotLoad ⟨State.reset.machine, ⟨0⟩⟩)], _, _, ⟨[], rfl, rfl⟩, rfl, rfl⟩,
    ⟨planned State.reset [.host (.snapshotLoad ⟨State.reset.machine, ⟨1⟩⟩)], _, _, ⟨[], rfl, rfl⟩, rfl, by decide⟩⟩

theorem witness_SnapshotRoundTrips : frameDone.Inv := frameDone_inv

/-- The largest program under the highest font. -/
theorem witness_ProgramLoadResets :
    ∃ (s s' : State) (bytes : List Byte) (id : ProgramId), s.hostTurn (.programLoad bytes id) s' ∧
      bytes.length = 3584 ∧ s.config.fontBase + 80 = 0x200 :=
  ⟨{ planned State.reset [.host (.programLoad (List.replicate 3584 0x60) ⟨1⟩)] with
      config := { Config.default with fontBase := 0x1B0 } }, _, _, _, ⟨[], rfl, rfl⟩, List.length_replicate, rfl⟩

theorem witness_UnfitProgramIsRefused :
    (∃ (s s' : State) (bytes : List Byte) (id : ProgramId), s.hostTurn (.programLoad bytes id) s' ∧
      bytes.length = 3585) ∧
    (∃ (s s' : State) (bytes : List Byte) (id : ProgramId), s.hostTurn (.programLoad bytes id) s' ∧
      s.config.fontBase + 80 = 0x201) :=
  ⟨⟨planned State.reset [.host (.programLoad (List.replicate 3585 0x60) ⟨1⟩)], _, _, _, ⟨[], rfl, rfl⟩, List.length_replicate⟩,
    ⟨{ planned State.reset [.host (.programLoad [] ⟨1⟩)] with config := { Config.default with fontBase := 0x1B1 } },
      _, _, _, ⟨[], rfl, rfl⟩, rfl⟩⟩

theorem witness_ResetIsEmptyLoadWithInv :
    frameDone.config = Config.default ∧ frameDone.turns = [] ∧ frameDone.draws = 0 := ⟨rfl, rfl, rfl⟩

end Sys2Proof.Tests
end

/-! # Control flow: jump, call and conditional skips (spec/40_control_flow.md) -/

namespace Sys2Proof

/-! ### The decoder by families (R76) -/

theorem decode_jp (w : Word) (h : opNibble w = 0x1) : decode w = .known (.jp (fieldNnn w)) := by
  rw [decode_of_opNibble_ne_zero w (by rw [h]; decide), decodeFamily, h]
  rfl

theorem decode_call (w : Word) (h : opNibble w = 0x2) : decode w = .known (.call (fieldNnn w)) := by
  rw [decode_of_opNibble_ne_zero w (by rw [h]; decide), decodeFamily, h]
  rfl

theorem decode_seImm (w : Word) (h : opNibble w = 0x3) : decode w = .known (.seImm (fieldX w) (fieldNn w)) := by
  rw [decode_of_opNibble_ne_zero w (by rw [h]; decide), decodeFamily, h]
  rfl

theorem decode_sneImm (w : Word) (h : opNibble w = 0x4) : decode w = .known (.sneImm (fieldX w) (fieldNn w)) := by
  rw [decode_of_opNibble_ne_zero w (by rw [h]; decide), decodeFamily, h]
  rfl

/-- The family `5XYn` has one instruction, at low nibble 0. -/
theorem decode_family5 (w : Word) (h : opNibble w = 0x5) :
    decode w = if fieldN w = 0 then .known (.seReg (fieldX w) (fieldY w)) else .unknown w := by
  rw [decode_of_opNibble_ne_zero w (by rw [h]; decide), decodeFamily, h]
  simp only [← Fin.val_eq_zero_iff]
  rfl

/-- The family `9XYn` has one instruction, at low nibble 0. -/
theorem decode_family9 (w : Word) (h : opNibble w = 0x9) :
    decode w = if fieldN w = 0 then .known (.sneReg (fieldX w) (fieldY w)) else .unknown w := by
  rw [decode_of_opNibble_ne_zero w (by rw [h]; decide), decodeFamily, h]
  simp only [← Fin.val_eq_zero_iff]
  rfl

end Sys2Proof

namespace Sys2Proof.Machine

/-! ### Instructions that write `pc` alone -/

@[simp] theorem zextNnn_toNat (nnn : Nnn) : (zextNnn nnn).toNat = nnn.toNat :=
  BitVec.toNat_setWidth_of_le (by decide)

/-- An instruction whose only write is to `pc` changes no other part. -/
theorem Completes.of_setPc {i : Instr} {s : State} {post : State → Prop} (w : Word)
    (he : exec i s = s.complete (s.machine.setPc w)) (hp : post { s with machine := s.machine.setPc w }) :
    Completes i s (fun p => p = .pc) post := by
  refine .of_machine _ he hp fun p _ hpc => ?_
  cases p with
  | pc => exact absurd rfl hpc
  | outputs => exact ⟨rfl, rfl, rfl⟩
  | _ => rfl

/-- The four skips differ in their condition only (R108): each advances `pc` by 4 if it holds, else by 2. -/
theorem Completes.of_skipIf {i : Instr} {s : State} {cond : Bool} {p : Prop} [Decidable p]
    (he : exec i s = s.complete (s.machine.skipIf cond)) (hc : cond = true ↔ p) :
    Completes i s (fun q => q = .pc) (fun t => t.machine.pc = s.machine.pc + (if p then 4 else 2)) :=
  .of_setPc _ he (by simp only [MachineState.setPc_pc, hc])

/-! ### The call -/

/-- What a call makes of `MachineState` when a slot is free. -/
def MachineState.called (m : MachineState) (nnn : Nnn) (h : m.sp.val < 16) : MachineState :=
  { m with stack := m.stack.set m.sp.val (m.pc + 2), sp := ⟨m.sp.val + 1, by omega⟩, pc := zextNnn nnn }

theorem exec_call_of_lt (nnn : Nnn) (s : State) (h : s.machine.sp.val < 16) :
    exec (.call nnn) s = .next { s with machine := s.machine.called nnn h } := by
  rw [exec, execCall, MachineState.push_of_lt _ _ h]
  rfl

theorem exec_call_full (nnn : Nnn) (s : State) (h : s.machine.sp.val = 16) :
    exec (.call nnn) s = .next (s.raise .stackOverflow s.machine.pc) := by
  rw [exec, execCall, MachineState.push_full _ _ h]

theorem MachineState.called_stack_same (m : MachineState) (nnn : Nnn) (h : m.sp.val < 16) :
    (m.called nnn h).stack[m.sp.val] = m.pc + 2 :=
  Vector.getElem_set_self h

theorem MachineState.called_stack_other (m : MachineState) (nnn : Nnn) (h : m.sp.val < 16) (k : Fin 16)
    (hk : k ≠ ⟨m.sp.val, h⟩) : (m.called nnn h).stack[k] = m.stack[k] :=
  Vector.getElem_set_ne h k.isLt fun e => hk (Fin.ext e.symm)

/-- A call writes the first free slot, `sp` and `pc`. -/
theorem State.called_frame (s : State) (nnn : Nnn) (h : s.machine.sp.val < 16) (p : Part)
    (hp : ¬ (p = .slot ⟨s.machine.sp.val, h⟩ ∨ p = .sp ∨ p = .pc)) :
    p.Same s { s with machine := s.machine.called nnn h } := by
  cases p with
  | slot k => exact s.machine.called_stack_other nnn h k fun e => hp (.inl (e ▸ rfl))
  | sp => exact absurd (.inr (.inl rfl)) hp
  | pc => exact absurd (.inr (.inr rfl)) hp
  | outputs => exact ⟨rfl, rfl, rfl⟩
  | _ => rfl

/-! ### The statements -/

/-- Settles O26: a free slot takes the return address, and the full stack raises, by what `push` does in each case. -/
theorem callPushesReturnAddress : Obligations.CallPushesReturnAddress := by
  refine ⟨decode_call, fun nnn s => ⟨fun h => ?_, fun h => exec_call_full nnn s h⟩⟩
  exact .of_machine _ (exec_call_of_lt nnn s h) ⟨s.machine.called_stack_same nnn h, rfl, zextNnn_toNat nnn⟩
    fun p _ => State.called_frame s nnn h p

/-- Settles O24: the jump writes `pc` alone. -/
theorem jumpLoadsPc : Obligations.JumpLoadsPc :=
  ⟨decode_jp, fun nnn _ => .of_setPc (zextNnn nnn) rfl (zextNnn_toNat nnn)⟩

/-- Settles O29: both are skips, on equality and on inequality of `V[x]` and `nn`. -/
theorem skipsOnImmediate : Obligations.SkipsOnImmediate :=
  ⟨decode_seImm, decode_sneImm, fun _ _ _ => ⟨.of_skipIf rfl beq_iff_eq, .of_skipIf rfl bne_iff_ne⟩⟩

/-- Settles O30: both are skips, on equality and on inequality of `V[x]` and `V[y]`; their families hold no other
instruction. -/
theorem skipsOnRegisters : Obligations.SkipsOnRegisters := by
  refine ⟨fun w h hn => ?_, fun w h hn => ?_, fun w h hn => ?_,
    fun _ _ _ => ⟨.of_skipIf rfl beq_iff_eq, .of_skipIf rfl bne_iff_ne⟩⟩
  · rw [decode_family5 w h, if_pos hn]
  · rw [decode_family9 w h, if_pos hn]
  · rcases h with h5 | h9
    · rw [decode_family5 w h5, if_neg hn]
    · rw [decode_family9 w h9, if_neg hn]

end Sys2Proof.Machine

/-! # Key input: skip on key (spec/41_key_input.md) -/

namespace Sys2Proof

/-! ### The family `EXnn` (R76) -/

theorem decode_familyE (w : Word) (h : opNibble w = 0xE) : decode w = decodeKeySkip w := by
  rw [decode_of_opNibble_ne_zero w (by rw [h]; decide), decodeFamily, h]
  rfl

theorem decode_skp (w : Word) (h : opNibble w = 0xE) (hn : fieldNn w = 0x9E) :
    decode w = .known (.skp (fieldX w)) := by
  rw [decode_familyE w h, decodeKeySkip, hn]
  rfl

theorem decode_sknp (w : Word) (h : opNibble w = 0xE) (hn : fieldNn w = 0xA1) :
    decode w = .known (.sknp (fieldX w)) := by
  rw [decode_familyE w h, decodeKeySkip, hn]
  rfl

end Sys2Proof

namespace Sys2Proof.Machine

@[simp] theorem zextByte_toNat (b : Byte) : (zextByte b).toNat = b.toNat :=
  BitVec.toNat_setWidth_of_le (by decide)

/-! ### The two key skips, by the index in `V[x]` (R113) -/

theorem State.keySkip_of_key {s : State} {x : Reg} {k : Key} (cond : Key → Bool)
    (h : (s.machine.reg x).toNat = k.val) : s.keySkip x cond = s.complete (s.machine.skipIf (cond k)) := by
  rw [State.keySkip, keyIndex_of_le _ k h]

theorem State.keySkip_of_gt {s : State} {x : Reg} (cond : Key → Bool) (h : (s.machine.reg x).toNat > 15) :
    s.keySkip x cond = .next (s.raise .keyIndexOutOfRange (zextByte (s.machine.reg x))) := by
  rw [State.keySkip, keyIndex_of_gt _ h]

/-- A key skip whose register names a key skips on what it asks of that key. -/
theorem Completes.of_keySkip {i : Instr} {s : State} {x : Reg} {k : Key} {cond : Key → Bool} {p : Prop} [Decidable p]
    (he : exec i s = s.keySkip x cond) (hk : (s.machine.reg x).toNat = k.val) (hc : cond k = true ↔ p) :
    Completes i s (fun q => q = .pc) (fun t => t.machine.pc = s.machine.pc + (if p then 4 else 2)) :=
  .of_skipIf (he.trans (State.keySkip_of_key cond hk)) hc

/-- A key skip whose register names no key raises, with the register's value as `info`, whatever it asks. -/
theorem Raises.of_keySkip {i : Instr} {s : State} {x : Reg} {cond : Key → Bool} {info : Word}
    (he : exec i s = s.keySkip x cond) (hx : (s.machine.reg x).toNat > 15)
    (hi : info.toNat = (s.machine.reg x).toNat) : Raises i s .keyIndexOutOfRange info := by
  have hinfo : info = zextByte (s.machine.reg x) := BitVec.eq_of_toNat_eq (hi.trans (zextByte_toNat _).symm)
  rw [hinfo]
  exact he.trans (State.keySkip_of_gt cond hx)

/-- Settles O31: both are key skips, `EX9E` on the key being down and `EXA1` on its being up. -/
theorem skipsOnKey : Obligations.SkipsOnKey := by
  refine ⟨decode_skp, decode_sknp, fun x s => ⟨fun k hk => ⟨?_, ?_⟩, fun hx info hi => ⟨?_, ?_⟩⟩⟩
  · exact .of_keySkip rfl hk Iff.rfl
  · exact .of_keySkip rfl hk (Bool.not_eq_true' _).to_iff
  · exact .of_keySkip rfl hx hi
  · exact .of_keySkip rfl hx hi

end Sys2Proof.Machine

/-! # Register and index register loads (spec/42_register_immediate.md) -/

namespace Sys2Proof

/-! ### The decoder by families (R76) -/

theorem decode_ldImm (w : Word) (h : opNibble w = 0x6) : decode w = .known (.ldImm (fieldX w) (fieldNn w)) := by
  rw [decode_of_opNibble_ne_zero w (by rw [h]; decide), decodeFamily, h]
  rfl

theorem decode_addImm (w : Word) (h : opNibble w = 0x7) : decode w = .known (.addImm (fieldX w) (fieldNn w)) := by
  rw [decode_of_opNibble_ne_zero w (by rw [h]; decide), decodeFamily, h]
  rfl

theorem decode_ldI (w : Word) (h : opNibble w = 0xA) : decode w = .known (.ldI (fieldNnn w)) := by
  rw [decode_of_opNibble_ne_zero w (by rw [h]; decide), decodeFamily, h]
  rfl

end Sys2Proof

namespace Sys2Proof.Machine

/-! ### One register written, then the next instruction -/

theorem MachineState.reg_setReg_self (m : MachineState) (x : Reg) (b : Byte) : (m.setReg x b).reg x = b := by
  rw [MachineState.reg_setReg, if_pos rfl]

theorem MachineState.reg_setReg_of_ne (m : MachineState) {x y : Reg} (b : Byte) (h : x ≠ y) :
    (m.setReg x b).reg y = m.reg y := by
  rw [MachineState.reg_setReg, if_neg h]

/-- An instruction that writes `V[x]` and advances changes no other part. None of these instructions writes a flag,
so `x = 15` is no special case. -/
theorem Completes.of_setReg_advance {i : Instr} {s : State} {x : Reg} {post : State → Prop} (b : Byte)
    (he : exec i s = s.complete (s.machine.setReg x b).advance)
    (hp : post { s with machine := (s.machine.setReg x b).advance }) :
    Completes i s (fun p => p = .reg x ∨ p = .pc) post := by
  refine .of_machine _ he hp fun p _ hpc => ?_
  cases p with
  | reg y => exact s.machine.reg_setReg_of_ne b fun e => hpc (.inl (e ▸ rfl))
  | pc => exact absurd (.inr rfl) hpc
  | outputs => exact ⟨rfl, rfl, rfl⟩
  | _ => rfl

/-- An instruction that writes `I` and advances changes no other part. -/
theorem Completes.of_setI_advance {i : Instr} {s : State} {post : State → Prop} (w : Word)
    (he : exec i s = s.complete (s.machine.setI w).advance)
    (hp : post { s with machine := (s.machine.setI w).advance }) :
    Completes i s (fun p => p = .i ∨ p = .pc) post := by
  refine .of_machine _ he hp fun p _ hpc => ?_
  cases p with
  | i => exact absurd (.inl rfl) hpc
  | pc => exact absurd (.inr rfl) hpc
  | outputs => exact ⟨rfl, rfl, rfl⟩
  | _ => rfl

/-! ### The statements -/

/-- Settles O34: `V[x]` reads as the byte just written. -/
theorem loadsImmediate : Obligations.LoadsImmediate :=
  ⟨decode_ldImm, fun x nn s => .of_setReg_advance nn rfl ⟨s.machine.reg_setReg_self x nn, rfl⟩⟩

/-- Settles O35: `V[x]` reads as the sum of two bytes, which is taken modulo 256. -/
theorem addsImmediate : Obligations.AddsImmediate := by
  refine ⟨decode_addImm, fun x nn s => .of_setReg_advance (s.machine.reg x + nn) rfl ⟨?_, rfl⟩⟩
  rw [MachineState.reg_advance, MachineState.reg_setReg_self, BitVec.toNat_add]

/-- Settles O36: `I` is the address field, zero-extended. -/
theorem loadsIndex : Obligations.LoadsIndex :=
  ⟨decode_ldI, fun nnn _ => .of_setI_advance (zextNnn nnn) rfl ⟨zextNnn_toNat nnn, rfl⟩⟩

end Sys2Proof.Machine

/-! # ALU: copy, addition and subtractions (spec/43_alu_register.md) -/

namespace Sys2Proof

/-! ### The family `8XYn` (R76, R79) -/

theorem decode_family8 (w : Word) (h : opNibble w = 0x8) : decode w = decodeAlu w := by
  rw [decode_of_opNibble_ne_zero w (by rw [h]; decide), decodeFamily, h]
  rfl

theorem decode_ldReg (w : Word) (h : opNibble w = 0x8) (hn : fieldN w = 0x0) :
    decode w = .known (.ldReg (fieldX w) (fieldY w)) := by
  rw [decode_family8 w h, decodeAlu, hn]
  rfl

theorem decode_addReg (w : Word) (h : opNibble w = 0x8) (hn : fieldN w = 0x4) :
    decode w = .known (.addReg (fieldX w) (fieldY w)) := by
  rw [decode_family8 w h, decodeAlu, hn]
  rfl

theorem decode_subReg (w : Word) (h : opNibble w = 0x8) (hn : fieldN w = 0x5) :
    decode w = .known (.subReg (fieldX w) (fieldY w)) := by
  rw [decode_family8 w h, decodeAlu, hn]
  rfl

theorem decode_subn (w : Word) (h : opNibble w = 0x8) (hn : fieldN w = 0x7) :
    decode w = .known (.subn (fieldX w) (fieldY w)) := by
  rw [decode_family8 w h, decodeAlu, hn]
  rfl

end Sys2Proof

namespace Sys2Proof.Machine

/-! ### One register written, then the flag (R130) -/

theorem MachineState.reg_setFlag_flag (m : MachineState) (f : Bool) : (m.setFlag f).reg 15 = flagByte f := by
  rw [MachineState.reg_setFlag, if_pos rfl]

theorem MachineState.reg_setFlag_of_ne (m : MachineState) (f : Bool) {x : Reg} (h : x ≠ 15) :
    (m.setFlag f).reg x = m.reg x := by
  rw [MachineState.reg_setFlag, if_neg h]

/-- An operation with a flag changes `V[x]`, `VF` and `pc` and no other part. -/
theorem Completes.of_aluFlag {i : Instr} {s : State} {x : Reg} {post : State → Prop} (r : Byte) (f : Bool)
    (he : exec i s = s.aluFlag x r f)
    (hp : post { s with machine := ((s.machine.setReg x r).setFlag f).advance }) :
    Completes i s (fun p => p = .reg x ∨ p = .reg 15 ∨ p = .pc) post := by
  refine .of_machine _ (he.trans (s.aluFlag_eq x r f)) hp fun p _ hpc => ?_
  cases p with
  | reg y =>
    have hx : x ≠ y := fun e => hpc (.inl (e ▸ rfl))
    have hflag : y ≠ 15 := fun e => hpc (.inr (.inl (e ▸ rfl)))
    exact (MachineState.reg_setFlag_of_ne _ f hflag).trans (s.machine.reg_setReg_of_ne r hx)
  | pc => exact absurd (.inr (.inr rfl)) hpc
  | outputs => exact ⟨rfl, rfl, rfl⟩
  | _ => rfl

/-- An operation whose flag is a condition `p` on its operands: `V[x]` keeps the result unless the flag, written
last, overwrites it. -/
theorem Completes.of_aluFlag_decide {i : Instr} {s : State} {x : Reg} {p : Prop} [Decidable p] {n : Nat} (r : Byte)
    (he : exec i s = s.aluFlag x r (decide p)) (hr : r.toNat = n) :
    Completes i s (fun q => q = .reg x ∨ q = .reg 15 ∨ q = .pc)
      (fun t => (x ≠ 15 → (t.machine.reg x).toNat = n) ∧ t.machine.reg 15 = (if p then 1 else 0) ∧
        t.machine.pc = s.machine.pc + 2) := by
  refine .of_aluFlag r (decide p) he ⟨fun hx => ?_, ?_, rfl⟩
  · rw [MachineState.reg_advance, MachineState.reg_setFlag_of_ne _ _ hx, MachineState.reg_setReg_self, hr]
  · rw [MachineState.reg_advance, MachineState.reg_setFlag_flag, flagByte_decide]

/-- The difference of two bytes in the spelling of R136 and R138: 256 is added before the subtrahend is taken off. -/
theorem byte_toNat_sub (a b : Byte) : (a - b).toNat = (a.toNat + 256 - b.toNat) % 256 := by
  have hb := b.isLt
  rw [BitVec.toNat_sub]
  omega

/-! ### The statements -/

/-- Settles O40: the copy writes `V[x]` and no flag. -/
theorem copiesRegister : Obligations.CopiesRegister :=
  ⟨decode_ldReg, fun x y s => .of_setReg_advance (s.machine.reg y) rfl ⟨s.machine.reg_setReg_self x _, rfl⟩⟩

/-- Settles O42: the sum of two bytes is taken modulo 256, and the flag is the carry of the exact sum. -/
theorem additionSetsCarry : Obligations.AdditionSetsCarry :=
  ⟨decode_addReg, fun x y s => .of_aluFlag_decide (s.machine.reg x + s.machine.reg y) rfl (BitVec.toNat_add _ _)⟩

/-- Settles O43: the two subtractions differ in which operand is the minuend; both write `V[x]`, and the flag says
that nothing was borrowed. -/
theorem subtractionsSetNoBorrow : Obligations.SubtractionsSetNoBorrow :=
  ⟨decode_subReg, decode_subn, fun x y s =>
    ⟨.of_aluFlag_decide (s.machine.reg x - s.machine.reg y) rfl (byte_toNat_sub _ _),
      .of_aluFlag_decide (s.machine.reg y - s.machine.reg x) rfl (byte_toNat_sub _ _)⟩⟩

end Sys2Proof.Machine

/-! # Display: clear the screen (spec/46_display.md) -/

namespace Sys2Proof

/-- The clear is the one word `0x00E0`, which the decoder takes before it looks at any family (R76). -/
theorem decode_cls : decode 0x00E0 = .known .cls :=
  if_pos rfl

end Sys2Proof

namespace Sys2Proof.Machine

/-- An instruction that writes the screen and advances changes no other part. -/
theorem Completes.of_setScreen_advance {i : Instr} {s : State} {post : State → Prop} (scr : Screen)
    (he : exec i s = s.complete (s.machine.setScreen scr).advance)
    (hp : post { s with machine := (s.machine.setScreen scr).advance }) :
    Completes i s (fun p => p = .pc ∨ ∃ x y, p = .pixel x y) post := by
  refine .of_machine _ he hp fun p _ hpc => ?_
  cases p with
  | pc => exact absurd (.inl rfl) hpc
  | pixel x y => exact absurd (.inr ⟨x, y, rfl⟩) hpc
  | outputs => exact ⟨rfl, rfl, rfl⟩
  | _ => rfl

/-- Settles O51: the clear writes the blank screen, on which every pixel reads as off. -/
theorem clearsScreen : Obligations.ClearsScreen :=
  ⟨decode_cls, fun _ => .of_setScreen_advance Screen.blank rfl ⟨Screen.pixel_blank, rfl⟩⟩

end Sys2Proof.Machine

/-! # The cycle and the snapshot export (spec/60_exceptions.md) -/

namespace Sys2Proof.Machine

/-! ### The step as a cycle, and the cycle by what is fetched (R220, R221) -/

theorem step_of_cycleDue {s s' : State} (h : s.coreTurn s') (he : s'.Enabled)
    (hd : s'.cycleInFrame < s'.config.ipf) : step s = s'.cycle := by
  rw [step_of_coreTurn h, coreStep, if_pos (s'.enabled_iff.mpr he), State.cycleDue, if_pos (decide_eq_true hd)]

theorem State.cycle_of_gt (s : State) (h : s.machine.pc.toNat + 1 > 4095) :
    s.cycle = .next (s.raise .fetchOutOfBounds s.machine.pc) := by
  rw [State.cycle, s.fetch_of_gt h]

/-- A cycle whose fetch succeeds executes what the two bytes at `pc` decode to. -/
theorem State.cycle_of_decodeBytes {s : State} {op : Operation} (h : s.machine.pc.toNat + 1 ≤ 4095)
    (hop : decodeBytes [s.readByte s.machine.pc.toNat, s.readByte (s.machine.pc.toNat + 1)] = some (op, [])) :
    s.cycle = counted (execute op s) := by
  rw [decodeBytes, Option.some_inj, Prod.mk.injEq] at hop
  simp only [State.cycle, s.fetch_of_le h, hop.left]

/-- An unknown word sets the latch, so its cycle is not counted. -/
theorem counted_execute_unknown (w : Word) (s : State) :
    counted (execute (.unknown w) s) = .next (s.raise .unknownOpcode w) :=
  rfl

/-! ### The statements -/

/-- Settles O6: the step is a cycle, and the three clauses are the failed fetch, the instruction and the unknown
word. -/
theorem cycleFetchesDecodesExecutes : Obligations.CycleFetchesDecodesExecutes := by
  intro s s' hturn hen hdue
  rw [step_of_cycleDue hturn hen hdue]
  refine ⟨s'.cycle_of_gt, fun hpc i t hop hexec => ?_, fun hpc w hop => ?_⟩
  · rw [State.cycle_of_decodeBytes hpc hop, execute, hexec, counted, State.countCycle]
  · rw [State.cycle_of_decodeBytes hpc hop, counted_execute_unknown]
    rfl

/-- Settles O56: the event answers the state it is asked of, which is the state before it but for the host's plan, so
the copy is of that state too. -/
theorem exportIsInert : Obligations.ExportIsInert := by
  intro s s' hturn
  refine ⟨step_of_hostTurn hturn, ?_⟩
  rw [State.hostTurn_eq hturn]
  rfl

end Sys2Proof.Machine

/-! # The decoder against the encoder and the opcode table (spec/30_encoding.md) -/

namespace Sys2Proof

/-! ### The remaining rows of the decoder (R76) -/

theorem decode_ret : decode 0x00EE = .known .ret := by decide

/-- The family `0NNN`: the two zero-operand opcodes, by full equality (R75), and nothing else. -/
theorem decode_family0 (w : Word) (h : opNibble w = 0x0) :
    decode w = if w = 0x00E0#16 then .known .cls else if w = 0x00EE#16 then .known .ret else .unknown w := by
  rw [decode, decodeFamily, h]
  rfl

theorem decode_seReg (w : Word) (h : opNibble w = 0x5) (hn : fieldN w = 0) :
    decode w = .known (.seReg (fieldX w) (fieldY w)) := by
  rw [decode_family5 w h, if_pos hn]

theorem decode_orReg (w : Word) (h : opNibble w = 0x8) (hn : fieldN w = 0x1) :
    decode w = .known (.orReg (fieldX w) (fieldY w)) := by
  rw [decode_family8 w h, decodeAlu, hn]
  rfl

theorem decode_andReg (w : Word) (h : opNibble w = 0x8) (hn : fieldN w = 0x2) :
    decode w = .known (.andReg (fieldX w) (fieldY w)) := by
  rw [decode_family8 w h, decodeAlu, hn]
  rfl

theorem decode_xorReg (w : Word) (h : opNibble w = 0x8) (hn : fieldN w = 0x3) :
    decode w = .known (.xorReg (fieldX w) (fieldY w)) := by
  rw [decode_family8 w h, decodeAlu, hn]
  rfl

theorem decode_shr (w : Word) (h : opNibble w = 0x8) (hn : fieldN w = 0x6) :
    decode w = .known (.shr (fieldX w) (fieldY w)) := by
  rw [decode_family8 w h, decodeAlu, hn]
  rfl

theorem decode_shl (w : Word) (h : opNibble w = 0x8) (hn : fieldN w = 0xE) :
    decode w = .known (.shl (fieldX w) (fieldY w)) := by
  rw [decode_family8 w h, decodeAlu, hn]
  rfl

theorem decode_sneReg (w : Word) (h : opNibble w = 0x9) (hn : fieldN w = 0) :
    decode w = .known (.sneReg (fieldX w) (fieldY w)) := by
  rw [decode_family9 w h, if_pos hn]

theorem decode_jpV0 (w : Word) (h : opNibble w = 0xB) : decode w = .known (.jpV0 (fieldNnn w)) := by
  rw [decode_of_opNibble_ne_zero w (by rw [h]; decide), decodeFamily, h]
  rfl

theorem decode_rnd (w : Word) (h : opNibble w = 0xC) : decode w = .known (.rnd (fieldX w) (fieldNn w)) := by
  rw [decode_of_opNibble_ne_zero w (by rw [h]; decide), decodeFamily, h]
  rfl

theorem decode_drw (w : Word) (h : opNibble w = 0xD) :
    decode w = .known (.drw (fieldX w) (fieldY w) (fieldN w)) := by
  rw [decode_of_opNibble_ne_zero w (by rw [h]; decide), decodeFamily, h]
  rfl

theorem decode_familyF (w : Word) (h : opNibble w = 0xF) : decode w = decodeMisc w := by
  rw [decode_of_opNibble_ne_zero w (by rw [h]; decide), decodeFamily, h]
  rfl

theorem decode_ldVxDt (w : Word) (h : opNibble w = 0xF) (hn : fieldNn w = 0x07) :
    decode w = .known (.ldVxDt (fieldX w)) := by
  rw [decode_familyF w h, decodeMisc, hn]
  rfl

theorem decode_ldVxK (w : Word) (h : opNibble w = 0xF) (hn : fieldNn w = 0x0A) :
    decode w = .known (.ldVxK (fieldX w)) := by
  rw [decode_familyF w h, decodeMisc, hn]
  rfl

theorem decode_ldDtVx (w : Word) (h : opNibble w = 0xF) (hn : fieldNn w = 0x15) :
    decode w = .known (.ldDtVx (fieldX w)) := by
  rw [decode_familyF w h, decodeMisc, hn]
  rfl

theorem decode_ldStVx (w : Word) (h : opNibble w = 0xF) (hn : fieldNn w = 0x18) :
    decode w = .known (.ldStVx (fieldX w)) := by
  rw [decode_familyF w h, decodeMisc, hn]
  rfl

theorem decode_addI (w : Word) (h : opNibble w = 0xF) (hn : fieldNn w = 0x1E) :
    decode w = .known (.addI (fieldX w)) := by
  rw [decode_familyF w h, decodeMisc, hn]
  rfl

theorem decode_ldF (w : Word) (h : opNibble w = 0xF) (hn : fieldNn w = 0x29) :
    decode w = .known (.ldF (fieldX w)) := by
  rw [decode_familyF w h, decodeMisc, hn]
  rfl

theorem decode_ldB (w : Word) (h : opNibble w = 0xF) (hn : fieldNn w = 0x33) :
    decode w = .known (.ldB (fieldX w)) := by
  rw [decode_familyF w h, decodeMisc, hn]
  rfl

theorem decode_storeRegs (w : Word) (h : opNibble w = 0xF) (hn : fieldNn w = 0x55) :
    decode w = .known (.storeRegs (fieldX w)) := by
  rw [decode_familyF w h, decodeMisc, hn]
  rfl

theorem decode_loadRegs (w : Word) (h : opNibble w = 0xF) (hn : fieldNn w = 0x65) :
    decode w = .known (.loadRegs (fieldX w)) := by
  rw [decode_familyF w h, decodeMisc, hn]
  rfl

/-! ### Decoding a word that a format built (R72)

In each lemma `hd` is the decoder's rule for the words of one opcode. -/

theorem decode_formatA {op : Nat} {f : Nnn → Instr} (h : op < 16)
    (hd : ∀ w, opNibble w = BitVec.ofNat 4 op → decode w = .known (f (fieldNnn w))) (nnn : Nnn) :
    decode (formatA op nnn) = .known (f nnn) := by
  obtain ⟨-, hnnn⟩ := fields_formatA op nnn h
  rw [hd _ (nibble_formatA op nnn h), hnnn]

theorem decode_formatXI {op : Nat} {f : Reg → Byte → Instr} (h : op < 16)
    (hd : ∀ w, opNibble w = BitVec.ofNat 4 op → decode w = .known (f (fieldX w) (fieldNn w))) (x : Reg) (nn : Byte) :
    decode (formatXI op x nn) = .known (f x nn) := by
  obtain ⟨-, hx, hnn⟩ := fields_formatXI op x nn h
  rw [hd _ (nibble_formatXI op x nn h), hx, hnn]

theorem decode_formatXY {op : Nat} {sub : Height} {f : Reg → Reg → Instr} (h : op < 16)
    (hd : ∀ w, opNibble w = BitVec.ofNat 4 op → fieldN w = sub → decode w = .known (f (fieldX w) (fieldY w)))
    (x y : Reg) : decode (formatXY op x y sub.val) = .known (f x y) := by
  obtain ⟨-, hx, hy, hsub⟩ := fields_formatXY op x y sub.val h sub.isLt
  rw [hd _ (nibble_formatXY op x y sub.val h sub.isLt).left (Fin.ext hsub), hx, hy]

theorem decode_formatXF {op : Nat} {low : Nat} {f : Reg → Instr} (h : op < 16) (hl : low < 256)
    (hd : ∀ w, opNibble w = BitVec.ofNat 4 op → fieldNn w = BitVec.ofNat 8 low → decode w = .known (f (fieldX w)))
    (x : Reg) : decode (formatXF op x low) = .known (f x) := by
  obtain ⟨-, hx, hlow⟩ := fields_formatXF op x low h hl
  have hnn : fieldNn (formatXF op x low) = BitVec.ofNat 8 low :=
    BitVec.eq_of_toNat_eq (by rw [hlow, BitVec.toNat_ofNat, Nat.mod_eq_of_lt hl])
  rw [hd _ (nibble_formatXF op x low h hl).left hnn, hx]

/-- The decoder reads from an instruction's word that instruction. -/
theorem decode_encode (i : Instr) : decode (encode i) = .known i := by
  cases i with
  | cls => exact decode_cls
  | ret => exact decode_ret
  | jp nnn => exact decode_formatA (by decide) decode_jp nnn
  | call nnn => exact decode_formatA (by decide) decode_call nnn
  | seImm x nn => exact decode_formatXI (by decide) decode_seImm x nn
  | sneImm x nn => exact decode_formatXI (by decide) decode_sneImm x nn
  | seReg x y => exact decode_formatXY (by decide) decode_seReg x y
  | ldImm x nn => exact decode_formatXI (by decide) decode_ldImm x nn
  | addImm x nn => exact decode_formatXI (by decide) decode_addImm x nn
  | ldReg x y => exact decode_formatXY (by decide) decode_ldReg x y
  | orReg x y => exact decode_formatXY (by decide) decode_orReg x y
  | andReg x y => exact decode_formatXY (by decide) decode_andReg x y
  | xorReg x y => exact decode_formatXY (by decide) decode_xorReg x y
  | addReg x y => exact decode_formatXY (by decide) decode_addReg x y
  | subReg x y => exact decode_formatXY (by decide) decode_subReg x y
  | shr x y => exact decode_formatXY (by decide) decode_shr x y
  | subn x y => exact decode_formatXY (by decide) decode_subn x y
  | shl x y => exact decode_formatXY (by decide) decode_shl x y
  | sneReg x y => exact decode_formatXY (by decide) decode_sneReg x y
  | ldI nnn => exact decode_formatA (by decide) decode_ldI nnn
  | jpV0 nnn => exact decode_formatA (by decide) decode_jpV0 nnn
  | rnd x nn => exact decode_formatXI (by decide) decode_rnd x nn
  | drw x y n =>
    exact decode_formatXY (f := fun x y => .drw x y n) (by decide) (fun w h hn => by rw [decode_drw w h, hn]) x y
  | skp x => exact decode_formatXF (by decide) (by decide) decode_skp x
  | sknp x => exact decode_formatXF (by decide) (by decide) decode_sknp x
  | ldVxDt x => exact decode_formatXF (by decide) (by decide) decode_ldVxDt x
  | ldVxK x => exact decode_formatXF (by decide) (by decide) decode_ldVxK x
  | ldDtVx x => exact decode_formatXF (by decide) (by decide) decode_ldDtVx x
  | ldStVx x => exact decode_formatXF (by decide) (by decide) decode_ldStVx x
  | addI x => exact decode_formatXF (by decide) (by decide) decode_addI x
  | ldF x => exact decode_formatXF (by decide) (by decide) decode_ldF x
  | ldB x => exact decode_formatXF (by decide) (by decide) decode_ldB x
  | storeRegs x => exact decode_formatXF (by decide) (by decide) decode_storeRegs x
  | loadRegs x => exact decode_formatXF (by decide) (by decide) decode_loadRegs x

/-- Settles O2: the two bytes join to the instruction's word, which the decoder reads back. -/
theorem decodeOfEncode : Obligations.DecodeOfEncode := by
  intro i rest
  simp only [encodeBytes, List.cons_append, List.nil_append, decodeBytes, wordOfBytes_highByte_lowByte, decode_encode]

/-- Settles O1: each of the fifteen words is decoded by evaluation. -/
theorem sampleWordsDecode : Obligations.SampleWordsDecode := by
  unfold Obligations.SampleWordsDecode
  decide

/-! ### A word from the fields its format keeps (R73) -/

theorem formatA_fields {op : Nat} {w : Word} (h : (opNibble w).toNat = op) : formatA op (fieldNnn w) = w := by
  apply BitVec.eq_of_toNat_eq
  rw [formatA_toNat op _ (h ▸ (opNibble w).isLt), ← h, fieldNnn_toNat_nibbles, word_toNat_nibbles w]
  omega

theorem formatXI_fields {op : Nat} {w : Word} (h : (opNibble w).toNat = op) :
    formatXI op (fieldX w) (fieldNn w) = w := by
  apply BitVec.eq_of_toNat_eq
  rw [formatXI_toNat op _ _ (h ▸ (opNibble w).isLt), ← h, fieldNn_toNat_nibbles, word_toNat_nibbles w]
  omega

theorem formatXY_fields {op sub : Nat} {w : Word} (h : (opNibble w).toNat = op) (hn : (fieldN w).val = sub) :
    formatXY op (fieldX w) (fieldY w) sub = w := by
  apply BitVec.eq_of_toNat_eq
  rw [formatXY_toNat op _ _ sub (h ▸ (opNibble w).isLt) (hn ▸ (fieldN w).isLt), ← h, ← hn, word_toNat_nibbles w]

theorem formatXF_fields {op low : Nat} {w : Word} (h : (opNibble w).toNat = op) (hn : (fieldNn w).toNat = low) :
    formatXF op (fieldX w) low = w := by
  apply BitVec.eq_of_toNat_eq
  rw [formatXF_toNat op _ low (h ▸ (opNibble w).isLt) (hn ▸ (fieldNn w).isLt), ← h, ← hn, fieldNn_toNat_nibbles,
    word_toNat_nibbles w]
  omega

/-- The word that an operation stands for. -/
def Operation.word : Operation → Word
  | .known i => encode i
  | .unknown v => v

theorem decodeAlu_word {w : Word} (h : (opNibble w).toNat = 0x8) : (decodeAlu w).word = w := by
  unfold decodeAlu
  split
  case h_10 => rfl
  all_goals exact formatXY_fields h ‹_›

theorem decodeKeySkip_word {w : Word} (h : (opNibble w).toNat = 0xE) : (decodeKeySkip w).word = w := by
  unfold decodeKeySkip
  split
  case h_3 => rfl
  all_goals exact formatXF_fields h ‹_›

theorem decodeMisc_word {w : Word} (h : (opNibble w).toNat = 0xF) : (decodeMisc w).word = w := by
  unfold decodeMisc
  split
  case h_10 => rfl
  all_goals exact formatXF_fields h ‹_›

/-! ### The families, once (R76) -/

theorem opNibble_cases (w : Word) :
    opNibble w = 0x0 ∨ opNibble w = 0x1 ∨ opNibble w = 0x2 ∨ opNibble w = 0x3 ∨ opNibble w = 0x4 ∨ opNibble w = 0x5 ∨
    opNibble w = 0x6 ∨ opNibble w = 0x7 ∨ opNibble w = 0x8 ∨ opNibble w = 0x9 ∨ opNibble w = 0xA ∨ opNibble w = 0xB ∨
    opNibble w = 0xC ∨ opNibble w = 0xD ∨ opNibble w = 0xE ∨ opNibble w = 0xF := by
  generalize opNibble w = v
  revert v
  decide

/-- The word an operation stands for is the one it was decoded from. -/
theorem decode_word (w : Word) : (decode w).word = w := by
  rcases opNibble_cases w with
    h | h | h | h | h | h | h | h | h | h | h | h | h | h | h | h <;>
  have hop := congrArg BitVec.toNat h
  · rw [decode_family0 w h]
    split
    · exact ‹w = _›.symm
    · split
      · exact ‹w = _›.symm
      · rfl
  · rw [decode_jp w h]; exact formatA_fields hop
  · rw [decode_call w h]; exact formatA_fields hop
  · rw [decode_seImm w h]; exact formatXI_fields hop
  · rw [decode_sneImm w h]; exact formatXI_fields hop
  · rw [decode_family5 w h]
    split
    · exact formatXY_fields hop (congrArg Fin.val ‹_›)
    · rfl
  · rw [decode_ldImm w h]; exact formatXI_fields hop
  · rw [decode_addImm w h]; exact formatXI_fields hop
  · rw [decode_family8 w h]; exact decodeAlu_word hop
  · rw [decode_family9 w h]
    split
    · exact formatXY_fields hop (congrArg Fin.val ‹_›)
    · rfl
  · rw [decode_ldI w h]; exact formatA_fields hop
  · rw [decode_jpV0 w h]; exact formatA_fields hop
  · rw [decode_rnd w h]; exact formatXI_fields hop
  · rw [decode_drw w h]; exact formatXY_fields hop rfl
  · rw [decode_familyE w h]; exact decodeKeySkip_word hop
  · rw [decode_familyF w h]; exact decodeMisc_word hop

/-- Settles O3: both clauses say that an operation stands for the word it was decoded from. -/
theorem encodeOfDecode : Obligations.EncodeOfDecode := by
  refine fun w => ⟨fun i h => ?_, fun v h => ?_⟩
  · exact (congrArg Operation.word h).symm.trans (decode_word w)
  · exact (congrArg Operation.word h).symm.trans (decode_word w)

/-! ### The unknown words (R80) -/

theorem decode_family0_eq_unknown_iff {w : Word} (h : opNibble w = 0x0) :
    decode w = .unknown w ↔ w ≠ 0x00E0 ∧ w ≠ 0x00EE := by
  rw [decode_family0 w h]
  split
  · simp_all
  · split <;> simp_all

theorem decodeAlu_eq_unknown_iff (w : Word) :
    decodeAlu w = .unknown w ↔ fieldN w ∈ [8, 9, 10, 11, 12, 13, 15] := by
  unfold decodeAlu
  generalize fieldN w = n
  fin_cases n <;> simp

theorem decodeKeySkip_eq_unknown_iff (w : Word) :
    decodeKeySkip w = .unknown w ↔ fieldNn w ≠ 0x9E ∧ fieldNn w ≠ 0xA1 := by
  unfold decodeKeySkip
  split <;> simp_all [← BitVec.toNat_inj]

theorem decodeMisc_eq_unknown_iff (w : Word) :
    decodeMisc w = .unknown w ↔ fieldNn w ∉ [0x07, 0x0A, 0x15, 0x18, 0x1E, 0x29, 0x33, 0x55, 0x65] := by
  unfold decodeMisc
  split <;> simp_all [← BitVec.toNat_inj]

/-- Settles O5: the high nibble picks the family, and with it the one line of the list that can apply. -/
theorem unknownWordsExactly : Obligations.UnknownWordsExactly := by
  intro w
  rcases opNibble_cases w with
    h | h | h | h | h | h | h | h | h | h | h | h | h | h | h | h
  · simp only [decode_family0_eq_unknown_iff h, h]; simp
  · simp [decode_jp w h, h]
  · simp [decode_call w h, h]
  · simp [decode_seImm w h, h]
  · simp [decode_sneImm w h, h]
  · simp [decode_family5 w h, h]
  · simp [decode_ldImm w h, h]
  · simp [decode_addImm w h, h]
  · simp only [decode_family8 w h, decodeAlu_eq_unknown_iff, h]; simp
  · simp [decode_family9 w h, h]
  · simp [decode_ldI w h, h]
  · simp [decode_jpV0 w h, h]
  · simp [decode_rnd w h, h]
  · simp [decode_drw w h, h]
  · simp only [decode_familyE w h, decodeKeySkip_eq_unknown_iff, h]; simp
  · simp only [decode_familyF w h, decodeMisc_eq_unknown_iff, h]; simp

/-! ### The opcode table (R78) -/

/-- Every word that the row selects decodes to an instruction. -/
def OpcodeRow.Decodes (r : OpcodeRow) : Prop := ∀ w, r.selects w = true → ∃ i, decode w = .known i

theorem OpcodeRow.Decodes.full {r : OpcodeRow} {i : Instr} (hm : r.mask = 0xFFFF)
    (hd : decode r.pattern = .known i) : r.Decodes := by
  intro w h
  have hw : w &&& r.mask = r.pattern := of_decide_eq_true h
  rw [hm, show (0xFFFF : Word) = BitVec.allOnes 16 from rfl, BitVec.and_allOnes] at hw
  exact ⟨i, hw ▸ hd⟩

theorem OpcodeRow.Decodes.high {r : OpcodeRow} {f : Word → Instr} (p : BitVec 4) (hm : r.mask = 0xF000)
    (hp : ∀ k < 4, nibble r.pattern k = if k = 3 then p else 0) (hd : ∀ w, opNibble w = p → decode w = .known (f w)) :
    r.Decodes := fun w h => ⟨f w, hd w ((r.selects_high w p hm hp).mp h)⟩

theorem OpcodeRow.Decodes.highLow {r : OpcodeRow} {f : Word → Instr} (p q : BitVec 4) (hm : r.mask = 0xF00F)
    (hp : ∀ k < 4, nibble r.pattern k = if k = 3 then p else if k = 0 then q else 0)
    (hd : ∀ w, opNibble w = p → fieldN w = q.toFin → decode w = .known (f w)) : r.Decodes := by
  intro w h
  obtain ⟨h3, h0⟩ := (r.selects_highLow w p q hm hp).mp h
  exact ⟨f w, hd w h3 (congrArg BitVec.toFin h0)⟩

/-- The low byte of a word by its two nibbles. -/
theorem fieldNn_eq_append (w : Word) : fieldNn w = nibble w 1 ++ nibble w 0 := by
  apply BitVec.eq_of_toNat_eq
  rw [fieldNn_toNat, BitVec.toNat_append, ← Nat.shiftLeft_add_eq_or_of_lt (nibble w 0).isLt, nibble_toNat, nibble_toNat,
    Nat.shiftLeft_eq]
  omega

theorem OpcodeRow.Decodes.highByte {r : OpcodeRow} {f : Word → Instr} (p q t : BitVec 4) (hm : r.mask = 0xF0FF)
    (hp : ∀ k < 4, nibble r.pattern k = if k = 3 then p else if k = 1 then q else if k = 0 then t else 0)
    (hd : ∀ w, opNibble w = p → fieldNn w = q ++ t → decode w = .known (f w)) : r.Decodes := by
  intro w h
  obtain ⟨h3, h1, h0⟩ := (r.selects_highByte w p q t hm hp).mp h
  exact ⟨f w, hd w h3 (by rw [fieldNn_eq_append, h1, h0])⟩

theorem opcodeRowsLow_decodes : ∀ r ∈ opcodeRowsLow, r.Decodes := by
  simp only [opcodeRowsLow, List.forall_mem_cons, List.not_mem_nil, false_implies, implies_true, and_true]
  exact ⟨.full rfl decode_cls, .full rfl decode_ret, .high 0x1 rfl (by decide) decode_jp,
    .high 0x2 rfl (by decide) decode_call, .high 0x3 rfl (by decide) decode_seImm,
    .high 0x4 rfl (by decide) decode_sneImm, .highLow 0x5 0x0 rfl (by decide) decode_seReg,
    .high 0x6 rfl (by decide) decode_ldImm, .high 0x7 rfl (by decide) decode_addImm⟩

theorem opcodeRowsAlu_decodes : ∀ r ∈ opcodeRowsAlu, r.Decodes := by
  simp only [opcodeRowsAlu, List.forall_mem_cons, List.not_mem_nil, false_implies, implies_true, and_true]
  exact ⟨.highLow 0x8 0x0 rfl (by decide) decode_ldReg, .highLow 0x8 0x1 rfl (by decide) decode_orReg,
    .highLow 0x8 0x2 rfl (by decide) decode_andReg, .highLow 0x8 0x3 rfl (by decide) decode_xorReg,
    .highLow 0x8 0x4 rfl (by decide) decode_addReg, .highLow 0x8 0x5 rfl (by decide) decode_subReg,
    .highLow 0x8 0x6 rfl (by decide) decode_shr, .highLow 0x8 0x7 rfl (by decide) decode_subn,
    .highLow 0x8 0xE rfl (by decide) decode_shl⟩

theorem opcodeRowsMid_decodes : ∀ r ∈ opcodeRowsMid, r.Decodes := by
  simp only [opcodeRowsMid, List.forall_mem_cons, List.not_mem_nil, false_implies, implies_true, and_true]
  exact ⟨.highLow 0x9 0x0 rfl (by decide) decode_sneReg, .high 0xA rfl (by decide) decode_ldI,
    .high 0xB rfl (by decide) decode_jpV0, .high 0xC rfl (by decide) decode_rnd,
    .high 0xD rfl (by decide) decode_drw, .highByte 0xE 0x9 0xE rfl (by decide) decode_skp,
    .highByte 0xE 0xA 0x1 rfl (by decide) decode_sknp⟩

theorem opcodeRowsMisc_decodes : ∀ r ∈ opcodeRowsMisc, r.Decodes := by
  simp only [opcodeRowsMisc, List.forall_mem_cons, List.not_mem_nil, false_implies, implies_true, and_true]
  exact ⟨.highByte 0xF 0x0 0x7 rfl (by decide) decode_ldVxDt,
    .highByte 0xF 0x0 0xA rfl (by decide) decode_ldVxK,
    .highByte 0xF 0x1 0x5 rfl (by decide) decode_ldDtVx,
    .highByte 0xF 0x1 0x8 rfl (by decide) decode_ldStVx,
    .highByte 0xF 0x1 0xE rfl (by decide) decode_addI,
    .highByte 0xF 0x2 0x9 rfl (by decide) decode_ldF,
    .highByte 0xF 0x3 0x3 rfl (by decide) decode_ldB,
    .highByte 0xF 0x5 0x5 rfl (by decide) decode_storeRegs,
    .highByte 0xF 0x6 0x5 rfl (by decide) decode_loadRegs⟩

theorem opcodeTable_decodes : ∀ r ∈ opcodeTable, r.Decodes := by
  simp only [opcodeTable, List.forall_mem_append]
  exact ⟨⟨⟨opcodeRowsLow_decodes, opcodeRowsAlu_decodes⟩, opcodeRowsMid_decodes⟩, opcodeRowsMisc_decodes⟩

/-- Two rows of the table that agree on the bits both look at are one row. -/
theorem opcodeTable_separated :
    ∀ r ∈ opcodeTable, ∀ q ∈ opcodeTable, r.pattern &&& q.mask = q.pattern &&& r.mask → r = q := by
  decide

/-- Two rows that select one word agree on the bits both look at. -/
theorem OpcodeRow.pattern_and_mask_comm {r q : OpcodeRow} {w : Word} (hr : r.selects w = true)
    (hq : q.selects w = true) : r.pattern &&& q.mask = q.pattern &&& r.mask := by
  rw [← of_decide_eq_true hr, ← of_decide_eq_true hq]
  ac_rfl

/-- The table has a row for every instruction's word, with the instruction's mnemonic. -/
theorem encodesRow (i : Instr) : Laws.EncodesRow.Statement i := by
  cases i with
  | cls => exact Laws.EncodesRow.cls
  | ret => exact Laws.EncodesRow.ret
  | jp nnn => exact Laws.EncodesRow.jp nnn
  | call nnn => exact Laws.EncodesRow.call nnn
  | seImm x nn => exact Laws.EncodesRow.seImm x nn
  | sneImm x nn => exact Laws.EncodesRow.sneImm x nn
  | seReg x y => exact Laws.EncodesRow.seReg x y
  | ldImm x nn => exact Laws.EncodesRow.ldImm x nn
  | addImm x nn => exact Laws.EncodesRow.addImm x nn
  | ldReg x y => exact Laws.EncodesRow.ldReg x y
  | orReg x y => exact Laws.EncodesRow.orReg x y
  | andReg x y => exact Laws.EncodesRow.andReg x y
  | xorReg x y => exact Laws.EncodesRow.xorReg x y
  | addReg x y => exact Laws.EncodesRow.addReg x y
  | subReg x y => exact Laws.EncodesRow.subReg x y
  | shr x y => exact Laws.EncodesRow.shr x y
  | subn x y => exact Laws.EncodesRow.subn x y
  | shl x y => exact Laws.EncodesRow.shl x y
  | sneReg x y => exact Laws.EncodesRow.sneReg x y
  | ldI nnn => exact Laws.EncodesRow.ldI nnn
  | jpV0 nnn => exact Laws.EncodesRow.jpV0 nnn
  | rnd x nn => exact Laws.EncodesRow.rnd x nn
  | drw x y n => exact Laws.EncodesRow.drw x y n
  | skp x => exact Laws.EncodesRow.skp x
  | sknp x => exact Laws.EncodesRow.sknp x
  | ldVxDt x => exact Laws.EncodesRow.ldVxDt x
  | ldVxK x => exact Laws.EncodesRow.ldVxK x
  | ldDtVx x => exact Laws.EncodesRow.ldDtVx x
  | ldStVx x => exact Laws.EncodesRow.ldStVx x
  | addI x => exact Laws.EncodesRow.addI x
  | ldF x => exact Laws.EncodesRow.ldF x
  | ldB x => exact Laws.EncodesRow.ldB x
  | storeRegs x => exact Laws.EncodesRow.storeRegs x
  | loadRegs x => exact Laws.EncodesRow.loadRegs x

/-- Settles O4: an instruction's word is its encoding, which a row selects; a row's words all decode; and two rows that
select one word would agree on the bits both look at, which no two rows of the table do. -/
theorem decoderAgreesWithTable : Obligations.DecoderAgreesWithTable := by
  refine fun w => ⟨fun i h => ?_, fun v h r hr => ?_, fun r hr q hq hrw hqw => ?_⟩
  · have hw : encode i = w := (encodeOfDecode w).left i h
    exact hw ▸ encodesRow i
  · refine Bool.eq_false_iff.mpr fun hsel => ?_
    obtain ⟨i, hi⟩ := opcodeTable_decodes r hr w hsel
    exact absurd (h.symm.trans hi) nofun
  · exact opcodeTable_separated r hr q hq (OpcodeRow.pattern_and_mask_comm hrw hqw)

end Sys2Proof

/-! # The computed jump and the return (spec/40_control_flow.md) -/

namespace Sys2Proof.Machine

/-- Settles O25: 12 and 8 bits add up in 16 bits without a wrap. -/
theorem computedJumpAddsV0 : Obligations.ComputedJumpAddsV0 := by
  refine ⟨decode_jpV0, fun nnn s => ?_⟩
  have hsum : (zextNnn nnn + zextByte (s.machine.reg 0)).toNat = nnn.toNat + (s.machine.reg 0).toNat := by
    rw [BitVec.toNat_add, zextNnn_toNat, zextByte_toNat]
    omega
  refine .of_setPc (zextNnn nnn + zextByte (s.machine.reg 0)) rfl ⟨hsum, ?_⟩
  rw [MachineState.setPc_pc, hsum]
  omega

/-- What a return makes of `MachineState` when an address is on the stack. -/
def MachineState.returned (m : MachineState) (h : 0 < m.sp.val) : MachineState :=
  { m with sp := ⟨m.sp.val - 1, by omega⟩, pc := m.stack[m.sp.val - 1]'(by omega) }

theorem exec_ret_of_pos (s : State) (h : 0 < s.machine.sp.val) :
    exec .ret s = .next { s with machine := s.machine.returned h } := by
  rw [exec, execRet, MachineState.pop_of_pos _ h]
  rfl

theorem exec_ret_empty (s : State) (h : s.machine.sp.val = 0) :
    exec .ret s = .next (s.raise .stackUnderflow s.machine.pc) := by
  rw [exec, execRet, MachineState.pop_empty _ h]

/-- Settles O27: a return writes `sp` and `pc`, and the empty stack raises, by what `pop` does in each case. -/
theorem returnPopsAddress : Obligations.ReturnPopsAddress := by
  refine ⟨decode_ret, fun s => ⟨fun h => ?_, exec_ret_empty s⟩⟩
  refine .of_machine _ (exec_ret_of_pos s h) ⟨rfl, rfl⟩ fun p _ hp => ?_
  cases p with
  | sp => exact absurd (.inl rfl) hp
  | pc => exact absurd (.inr rfl) hp
  | outputs => exact ⟨rfl, rfl, rfl⟩
  | _ => rfl

/-- Settles O28: the return reads the slot that the call wrote. -/
theorem returnUndoesCall : Obligations.ReturnUndoesCall := by
  intro nnn s h
  exact ⟨_, _, exec_call_of_lt nnn s h, exec_ret_of_pos _ (Nat.succ_pos s.machine.sp.val),
    s.machine.called_stack_same nnn h, rfl⟩

end Sys2Proof.Machine

/-! # Immediates and timers with a register or the index register (spec/42_register_immediate.md,
spec/45_timer_access.md) -/

namespace Sys2Proof

theorem Config.wellFormed_iff (c : Config) :
    c.wellFormed = true ↔ c.fontBase + 80 ≤ 0x200 ∧ 1 ≤ c.clockRate ∧ 1 ≤ c.frameRate ∧ 1 ≤ c.ipf := by
  simp only [Config.wellFormed, Bool.and_eq_true, decide_eq_true_eq, and_assoc]

end Sys2Proof

namespace Sys2Proof.Machine

/-- A byte masked by `nn` has no bit outside `nn`. -/
theorem and_and_not_self (nn b : Byte) : (nn &&& b) &&& ~~~nn = 0 := by
  rw [BitVec.and_comm nn b, BitVec.and_assoc, BitVec.and_not_self]
  exact BitVec.and_zero

/-- Settles O37: the byte drawn is masked, and the count of draws is the one part outside `MachineState` that moves. -/
theorem randomByteIsMasked : Obligations.RandomByteIsMasked := by
  refine ⟨decode_rnd, fun x nn s => ⟨_, rfl, ?_, fun p hp => ?_⟩⟩
  · have hx : ((s.machine.setReg x (nn &&& Config.randomByte s.draws)).advance).reg x = _ :=
      s.machine.reg_setReg_self x _
    simp only [hx]
    exact ⟨trivial, and_and_not_self _ _, Nat.and_le_left, rfl, rfl⟩
  · cases p with
    | reg y => exact s.machine.reg_setReg_of_ne _ fun e => hp (.inl (e ▸ rfl))
    | pc => exact absurd (.inr (.inl rfl)) hp
    | draws => exact absurd (.inr (.inr rfl)) hp
    | outputs => exact ⟨rfl, rfl, rfl⟩
    | _ => rfl

/-- Settles O38: the sum is taken in 16 bits. -/
theorem addsToIndex : Obligations.AddsToIndex := by
  refine ⟨decode_addI, fun x s => .of_setI_advance (s.machine.i + zextByte (s.machine.reg x)) rfl ⟨?_, rfl⟩⟩
  rw [MachineState.advance_i, MachineState.setI_i, BitVec.toNat_add, zextByte_toNat]

/-- Settles O39: the font lies below `0x200`, so the glyph address does not wrap. -/
theorem pointsAtGlyph : Obligations.PointsAtGlyph := by
  refine ⟨decode_ldF, fun x s hc => ?_⟩
  have hfont := (s.config.wellFormed_iff.mp hc).left
  have hbyte := (s.machine.reg x).isLt
  have haddr : (glyphAddress s.config (s.machine.reg x)).toNat = s.config.fontBase + (s.machine.reg x).toNat * 5 := by
    rw [glyphAddress, BitVec.toNat_ofNat]
    omega
  refine .of_setI_advance (glyphAddress s.config (s.machine.reg x)) rfl ⟨haddr, ?_, rfl⟩
  rw [MachineState.advance_i, MachineState.setI_i, haddr]
  omega

/-- An instruction that writes `DT` and advances changes no other part. -/
theorem Completes.of_setDt_advance {i : Instr} {s : State} {post : State → Prop} (b : Byte)
    (he : exec i s = s.complete (s.machine.setDt b).advance)
    (hp : post { s with machine := (s.machine.setDt b).advance }) :
    Completes i s (fun p => p = .dt ∨ p = .pc) post := by
  refine .of_machine _ he hp fun p _ hpc => ?_
  cases p with
  | dt => exact absurd (.inl rfl) hpc
  | pc => exact absurd (.inr rfl) hpc
  | outputs => exact ⟨rfl, rfl, rfl⟩
  | _ => rfl

/-- An instruction that writes `ST` and advances changes no other part. -/
theorem Completes.of_setSt_advance {i : Instr} {s : State} {post : State → Prop} (b : Byte)
    (he : exec i s = s.complete (s.machine.setSt b).advance)
    (hp : post { s with machine := (s.machine.setSt b).advance }) :
    Completes i s (fun p => p = .st ∨ p = .pc) post := by
  refine .of_machine _ he hp fun p _ hpc => ?_
  cases p with
  | st => exact absurd (.inl rfl) hpc
  | pc => exact absurd (.inr rfl) hpc
  | outputs => exact ⟨rfl, rfl, rfl⟩
  | _ => rfl

/-- Settles O50: each of the three writes one destination with what it reads. -/
theorem timerAccessCopies : Obligations.TimerAccessCopies :=
  ⟨decode_ldVxDt, decode_ldDtVx, decode_ldStVx, fun x s =>
    ⟨.of_setReg_advance s.machine.dt rfl ⟨s.machine.reg_setReg_self x _, rfl⟩,
      .of_setDt_advance (s.machine.reg x) rfl ⟨rfl, rfl⟩, .of_setSt_advance (s.machine.reg x) rfl ⟨rfl, rfl⟩⟩⟩

end Sys2Proof.Machine

/-! # ALU: bitwise operations and shifts (spec/43_alu_register.md) -/

namespace Sys2Proof.Machine

/-- Settles O41: `V[x]` reads as the bitwise result, and no flag is written. -/
theorem logicLeavesTheFlag : Obligations.LogicLeavesTheFlag := by
  refine ⟨decode_orReg, decode_andReg, decode_xorReg, fun x y s => ⟨?_, ?_, ?_⟩⟩
  · refine .of_setReg_advance (s.machine.reg x ||| s.machine.reg y) rfl ⟨fun k => ?_, rfl⟩
    rw [MachineState.reg_advance, MachineState.reg_setReg_self, BitVec.getLsbD_or]
  · refine .of_setReg_advance (s.machine.reg x &&& s.machine.reg y) rfl ⟨fun k => ?_, rfl⟩
    rw [MachineState.reg_advance, MachineState.reg_setReg_self, BitVec.getLsbD_and]
  · refine .of_setReg_advance (s.machine.reg x ^^^ s.machine.reg y) rfl ⟨fun k => ?_, rfl⟩
    rw [MachineState.reg_advance, MachineState.reg_setReg_self, BitVec.getLsbD_xor]

theorem State.shiftOperand_eq (s : State) (x y : Reg) :
    s.shiftOperand x y = s.machine.reg (if s.config.shiftUsesVy = true then y else x) := by
  rw [State.shiftOperand, apply_ite s.machine.reg]

theorem flagByte_toNat (f : Bool) : (flagByte f).toNat = f.toNat := by cases f <;> rfl

theorem shiftOutRight_toNat (a : Byte) : (shiftOutRight a).toNat = a.toNat % 2 := by
  rw [shiftOutRight, BitVec.getLsbD, Nat.toNat_testBit, Nat.pow_zero, Nat.div_one]

theorem shiftOutLeft_toNat (a : Byte) : (shiftOutLeft a).toNat = a.toNat / 128 := by
  have ha := a.isLt
  rw [shiftOutLeft, BitVec.getLsbD, Nat.toNat_testBit]
  omega

/-- A shift: `V[x]` keeps the result unless the flag, written last, overwrites it. -/
theorem Completes.of_shift {i : Instr} {s : State} {x : Reg} {r : Byte} {f : Bool} {n b : Nat}
    (he : exec i s = s.aluFlag x r f) (hr : r.toNat = n) (hf : f.toNat = b) :
    Completes i s (fun p => p = .reg x ∨ p = .reg 15 ∨ p = .pc)
      (fun t => (x ≠ 15 → (t.machine.reg x).toNat = n) ∧ (t.machine.reg 15).toNat = b ∧
        t.machine.pc = s.machine.pc + 2) := by
  refine .of_aluFlag r f he ⟨fun hx => ?_, ?_, rfl⟩
  · rw [MachineState.reg_advance, MachineState.reg_setFlag_of_ne _ _ hx, MachineState.reg_setReg_self, hr]
  · rw [MachineState.reg_advance, MachineState.reg_setFlag_flag, flagByte_toNat, hf]

/-- Settles O44: the register that the configuration selects is shifted, and the flag is the bit shifted out. -/
theorem shiftsSetTheBitShiftedOut : Obligations.ShiftsSetTheBitShiftedOut := by
  refine ⟨decode_shr, decode_shl, fun x y s a ha => ?_⟩
  obtain rfl : s.shiftOperand x y = a := (s.shiftOperand_eq x y).trans ha.symm
  refine ⟨.of_shift rfl ?_ (shiftOutRight_toNat _), .of_shift rfl ?_ (shiftOutLeft_toNat _)⟩
  · rw [BitVec.toNat_ushiftRight, Nat.shiftRight_one]
  · rw [BitVec.toNat_shiftLeft, Nat.shiftLeft_eq, Nat.mul_comm]

end Sys2Proof.Machine

/-! # Key input: wait for a key tap (spec/41_key_input.md) -/

namespace Sys2Proof.Machine

/-! ### The wait, by its phase (R112) -/

theorem exec_ldVxK_idle (x : Reg) {s : State} (hp : s.machine.pending = none) (hk : ∀ k, s.machine.keyDown k = false) :
    exec (.ldVxK x) s = .next s := by
  simp only [exec, execLdVxK, hp, (s.machine.firstKeyDown_eq_none).mpr hk, State.complete]

theorem exec_ldVxK_press (x : Reg) {s : State} {k : Key} (hp : s.machine.pending = none)
    (hk : s.machine.firstKeyDown = some k) :
    exec (.ldVxK x) s = .next { s with machine := s.machine.setPending (some k) } := by
  simp only [exec, execLdVxK, hp, hk, State.complete]

theorem exec_ldVxK_hold (x : Reg) {s : State} {k : Key} (hp : s.machine.pending = some k)
    (hk : s.machine.keyDown k = true) : exec (.ldVxK x) s = .next s := by
  simp only [exec, execLdVxK, hp, hk, if_true, State.complete]

theorem exec_ldVxK_release (x : Reg) {s : State} {k : Key} (hp : s.machine.pending = some k)
    (hk : s.machine.keyDown k = false) :
    exec (.ldVxK x) s = .next { s with machine := ((s.machine.setReg x (keyByte k)).setPending none).advance } := by
  simp only [exec, execLdVxK, hp, hk, Bool.false_eq_true, if_false, State.complete]

@[simp] theorem keyByte_toNat (k : Key) : (keyByte k).toNat = k.val := by
  rw [keyByte, BitVec.toNat_ofNat]
  omega

/-- Settles O32: the four clauses are the four cases of `pending` and the key it asks for. -/
theorem keyWaitHasTwoPhases : Obligations.KeyWaitHasTwoPhases := by
  refine ⟨decode_ldVxK, fun x s => ⟨exec_ldVxK_idle x, fun k hp hk hl => ?_, fun k hp hk => exec_ldVxK_hold x hp hk,
    fun k hp hk => ?_⟩⟩
  · refine .of_machine _ (exec_ldVxK_press x hp ((s.machine.firstKeyDown_eq_some k).mpr ⟨hk, hl⟩)) rfl fun p _ hpc => ?_
    cases p with
    | pending => exact absurd rfl hpc
    | outputs => exact ⟨rfl, rfl, rfl⟩
    | _ => rfl
  · refine .of_machine _ (exec_ldVxK_release x hp hk) ⟨?_, rfl, rfl⟩ fun p _ hpc => ?_
    · rw [MachineState.reg_advance, MachineState.reg_setPending, MachineState.reg_setReg_self, keyByte_toNat]
    · cases p with
      | reg y => exact s.machine.reg_setReg_of_ne _ fun e => hpc (.inl (e ▸ rfl))
      | pending => exact absurd (.inr (.inl rfl)) hpc
      | pc => exact absurd (.inr (.inr rfl)) hpc
      | outputs => exact ⟨rfl, rfl, rfl⟩
      | _ => rfl

/-! ### A run step by step -/

theorem core_run_succ {s t : State} (h : step s = .next t) (n : Nat) :
    Host.Core.run Sys2Proof.core (n + 1) s = Host.Core.run Sys2Proof.core n t := by
  have hstep : Sys2Proof.core.step s = .next t := h
  simp only [Host.Core.run, hstep]

/-- The fetch reads memory, `pc` and the configuration only. -/
theorem State.fetch_of_same {s t : State} (hm : t.machine.memory = s.machine.memory)
    (hpc : t.machine.pc = s.machine.pc) (hc : t.config = s.config) : t.fetch = s.fetch := by
  simp only [State.fetch, State.readByte, hm, hpc, hc]

/-- A cycle that completes an instruction is counted. -/
theorem step_of_exec {s s' t : State} {w : Word} {i : Instr} (h : s.coreTurn s') (he : s'.Enabled)
    (hd : s'.cycleInFrame < s'.config.ipf) (hw : s'.fetch = some w) (hi : decode w = .known i)
    (hx : exec i s' = .next t) (ht : t.fault = none) :
    step s = .next { t with cycleInFrame := t.cycleInFrame + 1 } := by
  rw [step_of_cycleDue h he hd]
  simp only [State.cycle, hw, hi, execute, hx, counted, State.countCycle, ht, if_true]

theorem step_keyUp {s : State} {k : Key} {rest : List Turn} (h : s.turns = .host (.keyUp k) :: rest)
    (hf : s.fault = none) : step s = .next { s with machine := s.machine.setKey k false, turns := rest } := by
  rw [step_of_hostTurn ⟨rest, h, rfl⟩, hostStep, State.writeKey, if_pos hf]

/-- Settles O33: the three steps are the press, the host's event and the release. -/
theorem keyTapCommitsAfterRelease : Obligations.KeyTapCommitsAfterRelease := by
  intro x k w s hturns hfault hpaused hcancelled hdue hfetch hdecode hpending hdown hleast
  have hpress := step_of_exec (.inr ⟨_, hturns, rfl⟩)
    ⟨hfault, hpaused, fun h => absurd h.left (by simp [hcancelled])⟩ (Nat.lt_of_succ_lt hdue)
    ((State.fetch_of_same rfl rfl rfl).trans hfetch) hdecode
    (exec_ldVxK_press x hpending ((s.machine.firstKeyDown_eq_some k).mpr ⟨hdown, hleast⟩)) hfault
  have hkey := step_keyUp (s := { s with
    machine := s.machine.setPending (some k), cycleInFrame := s.cycleInFrame + 1,
    turns := [.host (.keyUp k), .core] }) rfl hfault
  have hrelease := step_of_exec (s := { s with
    machine := (s.machine.setPending (some k)).setKey k false, cycleInFrame := s.cycleInFrame + 1, turns := [.core] })
    (.inr ⟨[], rfl, rfl⟩) ⟨hfault, hpaused, fun h => absurd h.left (by simp [hcancelled])⟩ hdue
    ((State.fetch_of_same rfl rfl rfl).trans hfetch) hdecode
    (exec_ldVxK_release x rfl (by rw [MachineState.keyDown_setKey, if_pos rfl])) hfault
  refine ⟨_, _, (core_run_succ hpress 1).trans (core_run_succ hkey 0), rfl, rfl, rfl,
    ((core_run_succ hpress 2).trans (core_run_succ hkey 1)).trans (core_run_succ hrelease 0), ?_, rfl, rfl⟩
  rw [MachineState.reg_advance, MachineState.reg_setPending, MachineState.reg_setReg_self, keyByte_toNat]

end Sys2Proof.Machine

/-! # Loads and stores through `I` (spec/44_memory_transfer.md) -/

namespace Sys2Proof.Machine

/-! ### A block stored at `I` -/

/-- What a store of bytes at `I` makes of the state. -/
def State.stored (s : State) (bytes : List Byte) : State :=
  { s with machine := (s.machine.setMemory (s.storeBytes bytes)).advance }

theorem State.stored_readByte_inside (s : State) (bytes : List Byte) (k : Nat) (hk : k < bytes.length)
    (h : s.machine.i.toNat + bytes.length ≤ 4096) :
    (s.stored bytes).readByte (s.machine.i.toNat + k) = bytes[k] :=
  s.read_storeBytes_inside bytes k hk h

theorem State.stored_readByte_outside (s : State) (bytes : List Byte) (a : Nat)
    (h : a < s.machine.i.toNat ∨ s.machine.i.toNat + bytes.length ≤ a) : (s.stored bytes).readByte a = s.readByte a :=
  s.read_storeBytes_outside bytes a h

/-- A store within memory changes `pc` and the block's bytes and no other part. -/
theorem Completes.of_stored {i : Instr} {s : State} {may : Part → Prop} {post : State → Prop} (bytes : List Byte)
    (he : exec i s = .next (s.stored bytes)) (hp : post (s.stored bytes)) (hpc : may .pc)
    (hbytes : ∀ a, s.machine.i.toNat ≤ a → a < s.machine.i.toNat + bytes.length → may (.byte a)) :
    Completes i s may post := by
  refine .of_machine _ he hp fun p _ hnot => ?_
  cases p with
  | byte a =>
    refine s.stored_readByte_outside bytes a (Decidable.by_contra fun hin => hnot (hbytes a ?_ ?_))
    · omega
    · omega
  | pc => exact absurd hpc hnot
  | outputs => exact ⟨rfl, rfl, rfl⟩
  | _ => rfl

theorem exec_storeRegs_inside (x : Reg) (s : State) (h : s.machine.i.toNat + x.val ≤ 4095) :
    exec (.storeRegs x) s = .next (s.stored (s.machine.regsUpTo x)) :=
  s.checkedAccess_inside (x.val + 1) _ (.inr h)

theorem exec_ldB_inside (x : Reg) (s : State) (h : s.machine.i.toNat + 2 ≤ 4095) :
    exec (.ldB x) s = .next (s.stored (decimalDigits (s.machine.reg x))) :=
  s.checkedAccess_inside 3 _ (.inr h)

/-- After `FX55` the byte at `I + r` is `V[r]`. -/
theorem State.stored_regsUpTo_readByte (s : State) {x r : Reg} (hr : r ≤ x) (h : s.machine.i.toNat + x.val ≤ 4095) :
    (s.stored (s.machine.regsUpTo x)).readByte (s.machine.i.toNat + r.val) = s.machine.reg r := by
  have hlen : (s.machine.regsUpTo x).length = x.val + 1 := s.machine.length_regsUpTo x
  have hle : r.val ≤ x.val := hr
  rw [s.stored_readByte_inside _ r.val (by omega) (by omega), s.machine.getElem_regsUpTo x r hr]

/-- Settles O45: within memory the block is stored, past its end the access check raises. -/
theorem storesRegisterBlock : Obligations.StoresRegisterBlock := by
  refine ⟨decode_storeRegs, fun x s => ⟨fun h => ?_, fun h => s.checkedAccess_outside (x.val + 1) _ (by omega) h⟩⟩
  refine .of_stored _ (exec_storeRegs_inside x s h) ⟨fun r hr => s.stored_regsUpTo_readByte hr h, rfl⟩ (.inl rfl)
    fun a hlo hhi => .inr ⟨a, rfl, hlo, ?_⟩
  rw [MachineState.length_regsUpTo] at hhi
  omega

/-- Settles O47: the three digits are a block of three bytes, each digit below 10. -/
theorem storesDecimalDigits : Obligations.StoresDecimalDigits := by
  refine ⟨decode_ldB, fun x s => ⟨fun h => ?_, fun h => s.checkedAccess_outside 3 _ (by decide) h⟩⟩
  have hbyte := (s.machine.reg x).isLt
  have hread := s.stored_readByte_inside (decimalDigits (s.machine.reg x))
  refine .of_stored _ (exec_ldB_inside x s h) ⟨?_, ?_, ?_, rfl⟩ (.inl rfl)
    fun a hlo hhi => .inr ⟨a, rfl, hlo, Nat.le_of_lt_succ hhi⟩
  · rw [← Nat.add_zero s.machine.i.toNat, hread 0 (show 0 < 3 by decide) (Nat.succ_le_succ h)]
    exact Nat.mod_eq_of_lt (by omega)
  · rw [hread 1 (show 1 < 3 by decide) (Nat.succ_le_succ h)]
    exact Nat.mod_eq_of_lt (by omega)
  · rw [hread 2 (show 2 < 3 by decide) (Nat.succ_le_succ h)]
    exact Nat.mod_eq_of_lt (by omega)

/-! ### A block loaded from `I` -/

theorem exec_loadRegs_inside (x : Reg) (s : State) (h : s.machine.i.toNat + x.val ≤ 4095) :
    exec (.loadRegs x) s = .next { s with machine := (s.machine.setRegs (s.dataBytes (x.val + 1))).advance } :=
  s.checkedAccess_inside (x.val + 1) _ (.inr h)

/-- After `FX65` the registers up to `x` hold the bytes from `I` on, the others what they held. -/
theorem State.reg_setRegs_dataBytes (s : State) (x r : Reg) :
    (s.machine.setRegs (s.dataBytes (x.val + 1))).advance.reg r =
      if r ≤ x then s.readByte (s.machine.i.toNat + r.val) else s.machine.reg r := by
  rw [MachineState.reg_advance, MachineState.reg_setRegs, State.getElem?_dataBytes]
  by_cases hr : r ≤ x
  · rw [if_pos (Nat.lt_succ_of_le hr), if_pos hr, Option.getD_some]
  · rw [if_neg fun h => hr (Nat.le_of_lt_succ h), if_neg hr, Option.getD_none]

/-- Settles O46: within memory the block is loaded, past its end the access check raises. -/
theorem loadsRegisterBlock : Obligations.LoadsRegisterBlock := by
  refine ⟨decode_loadRegs, fun x s => ⟨fun h => ?_, fun h => s.checkedAccess_outside (x.val + 1) _ (by omega) h⟩⟩
  refine .of_machine _ (exec_loadRegs_inside x s h) ⟨fun r hr => ?_, by simp⟩ fun p _ hnot => ?_
  · exact (s.reg_setRegs_dataBytes x r).trans (if_pos hr)
  · cases p with
    | reg r => exact (s.reg_setRegs_dataBytes x r).trans (if_neg fun hr => hnot (.inr ⟨r, rfl, hr⟩))
    | pc => exact absurd (.inl rfl) hnot
    | outputs => exact ⟨rfl, rfl, rfl⟩
    | _ => simp [Part.Same, State.readByte, MachineState.keyDown]

/-- Settles O48: a register of the block reads back what was stored, the others are written by neither. -/
theorem loadUndoesStore : Obligations.LoadUndoesStore := by
  intro x s h
  refine ⟨_, _, exec_storeRegs_inside x s h, exec_loadRegs_inside x (s.stored (s.machine.regsUpTo x)) h, fun r => ?_⟩
  rw [State.reg_setRegs_dataBytes]
  split
  · exact s.stored_regsUpTo_readByte ‹_› h
  · rfl

/-- Settles O49: the next instruction's two bytes are the first two of the block, which the fetch reads. -/
theorem storesAreFetched : Obligations.StoresAreFetched := by
  intro x s hx h hi
  have hpc : (s.stored (s.machine.regsUpTo x)).machine.pc.toNat = s.machine.i.toNat := by
    have hnext : (s.machine.pc + 2).toNat = (s.machine.pc.toNat + 2) % 65536 := BitVec.toNat_add _ _
    exact hnext.trans (by omega)
  have h0 := s.stored_regsUpTo_readByte (r := 0) (Fin.zero_le x) h
  have h1 := s.stored_regsUpTo_readByte (r := 1) hx h
  refine ⟨_, exec_storeRegs_inside x s h, ?_⟩
  rw [State.fetch_of_le _ (by omega), hpc]
  exact congrArg some (congrArg₂ wordOfBytes h0 h1)

end Sys2Proof.Machine

/-! # Display: draw a sprite (spec/46_display.md) -/

namespace Sys2Proof.Machine

/-! ### The draw against the sprite's bits (R162) -/

/-- A draw of the bytes at `I` XORs the sprite's bits onto the screen. -/
theorem State.xors_draw (s : State) (x0 y0 n : Nat) :
    Drawn.Xors ⟨s.machine.screen, false⟩ (s.machine.draw x0 y0 (s.dataBytes n)) (s.spriteBit x0 y0 n) := by
  have hlen : (s.dataBytes n).length = n := Memory.length_readList ..
  refine (Drawn.xors_rows (s.dataBytes n) ⟨s.machine.screen, false⟩ x0 y0).congr fun px py _ _ => ?_
  rw [hlen, State.spriteBit, State.getElem?_dataBytes]
  by_cases hrow : y0 ≤ py ∧ py < y0 + n
  · rw [if_pos (by omega), Option.getD_some]
  · have hout : decide (y0 ≤ py) = false ∨ decide (py < y0 + n) = false := by
      simpa only [decide_eq_false_iff_not] using not_and_or.mp hrow
    rcases hout with h | h <;> simp [h]

/-- The draw that `V[x]`, `V[y]` and `n` name. -/
def State.drawn (s : State) (x y : Reg) (n : Height) : Drawn :=
  s.machine.draw (s.machine.reg x).toNat (s.machine.reg y).toNat (s.dataBytes n.val)

/-- The bits of its sprite, by pixel. -/
def State.drawnBit (s : State) (x y : Reg) (n : Height) : Nat → Nat → Bool :=
  s.spriteBit (s.machine.reg x).toNat (s.machine.reg y).toNat n.val

theorem State.drawn_pixel (s : State) (x y : Reg) (n : Height) {px py : Nat} (hx : px ≤ 63) (hy : py ≤ 31) :
    (s.drawn x y n).screen.pixel px py = (s.machine.screen.pixel px py ^^ s.drawnBit x y n px py) :=
  (s.xors_draw _ _ n.val).pixel px py hx hy

theorem State.drawn_collision (s : State) (x y : Reg) (n : Height) :
    (s.drawn x y n).collision = true ↔ ∃ px py, px ≤ 63 ∧ py ≤ 31 ∧ s.machine.screen.pixel px py = true ∧
      s.drawnBit x y n px py = true := by
  rw [State.drawn, (s.xors_draw _ _ _).collision, Bool.false_eq_true, false_or]
  rfl

/-- The state after a draw within memory. -/
def State.afterDraw (s : State) (x y : Reg) (n : Height) : State :=
  { s with machine := ((s.machine.setScreen (s.drawn x y n).screen).setFlag (s.drawn x y n).collision).advance }

theorem exec_drw_inside (x y : Reg) (n : Height) (s : State)
    (h : n.val = 0 ∨ s.machine.i.toNat + n.val - 1 ≤ 4095) : exec (.drw x y n) s = .next (s.afterDraw x y n) :=
  s.checkedAccess_inside n.val _ h

theorem State.afterDraw_flag (s : State) (x y : Reg) (n : Height) :
    (s.afterDraw x y n).machine.reg 15 = flagByte (s.drawn x y n).collision :=
  MachineState.reg_setFlag_flag ..

theorem State.afterDraw_reg (s : State) (x y : Reg) (n : Height) {z : Reg} (h : z ≠ 15) :
    (s.afterDraw x y n).machine.reg z = s.machine.reg z :=
  MachineState.reg_setFlag_of_ne _ _ h

/-- Settles O52: the pixels and the collision are those of XORing the sprite's bits. -/
theorem drawXorsSprite : Obligations.DrawXorsSprite := by
  refine ⟨decode_drw, ?_⟩
  rintro x y n s x0 y0 rfl rfl
  refine ⟨fun h => ?_, fun h => s.checkedAccess_outside n.val _ h.left h.right⟩
  refine .of_machine _ (exec_drw_inside x y n s h) ⟨fun px py => s.drawn_pixel x y n, fun hhit => ?_, fun hmiss => ?_,
    rfl⟩ fun p _ hnot => ?_
  · exact (s.afterDraw_flag x y n).trans (congrArg flagByte ((s.drawn_collision x y n).mpr hhit))
  · have hnone : (s.drawn x y n).collision = false := by
      rw [Bool.eq_false_iff, ne_eq, s.drawn_collision]
      rintro ⟨px, py, hx, hy, hon, hbit⟩
      exact absurd (hbit.symm.trans (hmiss px py hx hy hon)) (by decide)
    exact (s.afterDraw_flag x y n).trans (congrArg flagByte hnone)
  · cases p with
    | reg z => exact s.afterDraw_reg x y n fun e => hnot (.inr (.inl (e ▸ rfl)))
    | pc => exact absurd (.inl rfl) hnot
    | pixel px py => exact absurd (.inr (.inr ⟨px, py, rfl⟩)) hnot
    | outputs => exact ⟨rfl, rfl, rfl⟩
    | _ => rfl

/-! ### Two draws -/

/-- Two screens are equal when their pixels are. -/
theorem Screen.ext_pixel {scr scr' : Screen}
    (h : ∀ px py, px ≤ 63 → py ≤ 31 → scr.pixel px py = scr'.pixel px py) : scr = scr' := by
  refine Vector.ext fun py hy => BitVec.eq_of_getLsbD_eq fun px hx => ?_
  have hp := h px py (Nat.le_of_lt_succ hx) (Nat.le_of_lt_succ hy)
  simpa only [Screen.pixel, hy, dite_true] using hp

/-- A draw whose origin is not in `VF` changes neither its sprite nor its origin. -/
theorem State.drawnBit_afterDraw (s : State) {x y : Reg} (n : Height) (hx : x ≠ 15) (hy : y ≠ 15) :
    (s.afterDraw x y n).drawnBit x y n = s.drawnBit x y n := by
  rw [State.drawnBit, s.afterDraw_reg x y n hx, s.afterDraw_reg x y n hy]
  rfl

/-- Settles O53: the second draw XORs the same bits as the first, onto the screen that the first left. -/
theorem drawTwiceRestores : Obligations.DrawTwiceRestores := by
  intro x y n s hx hy h
  have hbit := s.drawnBit_afterDraw n hx hy
  refine ⟨_, _, exec_drw_inside x y n s h, exec_drw_inside x y n (s.afterDraw x y n) h,
    Screen.ext_pixel fun px py hpx hpy => ?_, ?_⟩
  · calc ((s.afterDraw x y n).drawn x y n).screen.pixel px py
        = ((s.drawn x y n).screen.pixel px py ^^ s.drawnBit x y n px py) :=
          hbit ▸ (s.afterDraw x y n).drawn_pixel x y n hpx hpy
      _ = s.machine.screen.pixel px py := by
          rw [s.drawn_pixel x y n hpx hpy, Bool.xor_assoc, Bool.xor_self, Bool.xor_false]
  · rintro ⟨px, py, hpx, hpy, hoff, hon⟩
    have hlit : (s.drawn x y n).screen.pixel px py = true := by
      rw [s.drawn_pixel x y n hpx hpy, hoff, Bool.false_xor]
      exact hon
    have hhit : ((s.afterDraw x y n).drawn x y n).collision = true :=
      (State.drawn_collision _ x y n).mpr ⟨px, py, hpx, hpy, hlit, hbit ▸ hon⟩
    exact (State.afterDraw_flag _ x y n).trans (congrArg flagByte hhit)

end Sys2Proof.Machine

/-! # Rules over all instructions: access matrix, precise faults (spec/10_state.md, spec/60_exceptions.md) -/

namespace Sys2Proof.Machine

/-! ### The access matrix (R40)

`m.AccessedBy i m'`: from `m` to `m'` nothing but `pc` is written that the instruction `i` may not write. Each setter
touches one entry of the matrix, so an instruction is checked setter by setter. -/

structure MachineState.AccessedBy (i : Instr) (m m' : MachineState) : Prop where
  memory : m'.memory = m.memory ∨ ∃ x, i = .ldB x ∨ i = .storeRegs x
  reg : ∀ r, m'.reg r = m.reg r ∨ writesReg i r
  index : m'.i = m.i ∨ (∃ nnn, i = .ldI nnn) ∨ ∃ x, i = .addI x ∨ i = .ldF x
  stack : m'.stack = m.stack ∨ ∃ nnn, i = .call nnn
  sp : m'.sp = m.sp ∨ i = .ret ∨ ∃ nnn, i = .call nnn
  dt : m'.dt = m.dt ∨ ∃ x, i = .ldDtVx x
  st : m'.st = m.st ∨ ∃ x, i = .ldStVx x
  screen : m'.screen = m.screen ∨ i = .cls ∨ ∃ x y n, i = .drw x y n
  pending : m'.pending = m.pending ∨ ∃ x, i = .ldVxK x

namespace MachineState.AccessedBy

theorem refl (i : Instr) (m : MachineState) : m.AccessedBy i m :=
  ⟨.inl rfl, fun _ => .inl rfl, .inl rfl, .inl rfl, .inl rfl, .inl rfl, .inl rfl, .inl rfl, .inl rfl⟩

variable {i : Instr} {m m' : MachineState}

theorem setReg (h : m.AccessedBy i m') {x : Reg} (b : Byte) (hx : writesReg i x) : m.AccessedBy i (m'.setReg x b) where
  __ := h
  reg r := by
    by_cases hr : x = r
    · exact .inr (hr ▸ hx)
    · rw [m'.reg_setReg_of_ne b hr]
      exact h.reg r

theorem setFlag (h : m.AccessedBy i m') (f : Bool) (hx : writesReg i 15) : m.AccessedBy i (m'.setFlag f) :=
  h.setReg (flagByte f) hx

theorem setPc (h : m.AccessedBy i m') (w : Word) : m.AccessedBy i (m'.setPc w) where
  __ := h

theorem advance (h : m.AccessedBy i m') : m.AccessedBy i m'.advance := h.setPc _

theorem skipIf (h : m.AccessedBy i m') (c : Bool) : m.AccessedBy i (m'.skipIf c) := h.setPc _

theorem setI (h : m.AccessedBy i m') (w : Word) (hi : (∃ nnn, i = .ldI nnn) ∨ ∃ x, i = .addI x ∨ i = .ldF x) :
    m.AccessedBy i (m'.setI w) where
  __ := h
  index := .inr hi

theorem setDt (h : m.AccessedBy i m') (b : Byte) (hi : ∃ x, i = .ldDtVx x) : m.AccessedBy i (m'.setDt b) where
  __ := h
  dt := .inr hi

theorem setSt (h : m.AccessedBy i m') (b : Byte) (hi : ∃ x, i = .ldStVx x) : m.AccessedBy i (m'.setSt b) where
  __ := h
  st := .inr hi

theorem setScreen (h : m.AccessedBy i m') (scr : Screen) (hi : i = .cls ∨ ∃ x y n, i = .drw x y n) :
    m.AccessedBy i (m'.setScreen scr) where
  __ := h
  screen := .inr hi

theorem setMemory (h : m.AccessedBy i m') (mem : Memory) (hi : ∃ x, i = .ldB x ∨ i = .storeRegs x) :
    m.AccessedBy i (m'.setMemory mem) where
  __ := h
  memory := .inr hi

theorem setPending (h : m.AccessedBy i m') (k : Option Key) (hi : ∃ x, i = .ldVxK x) :
    m.AccessedBy i (m'.setPending k) where
  __ := h
  pending := .inr hi

theorem called (m : MachineState) (nnn : Nnn) (h : m.sp.val < 16) : m.AccessedBy (.call nnn) (m.called nnn h) where
  __ := refl (.call nnn) m
  stack := .inr ⟨nnn, rfl⟩
  sp := .inr (.inr ⟨nnn, rfl⟩)

theorem returned (m : MachineState) (h : 0 < m.sp.val) : m.AccessedBy .ret (m.returned h) where
  __ := refl .ret m
  sp := .inr (.inl rfl)

end MachineState.AccessedBy

/-! ### What an answer leaves in `MachineState` -/

theorem State.complete_machine {s t : State} {m : MachineState} (h : s.complete m = .next t) : t.machine = m := by
  cases h
  rfl

/-- A checked access replaces `MachineState` or leaves it. -/
theorem State.checkedAccess_machine {s t : State} {k : Nat} {m : MachineState}
    (h : s.checkedAccess k (s.complete m) = .next t) : t.machine = m ∨ t.machine = s.machine := by
  rw [State.checkedAccess] at h
  split at h
  · exact .inl (State.complete_machine h)
  · cases h
    exact .inr rfl

/-- A key skip advances `pc` or leaves `MachineState`. -/
theorem State.keySkip_machine {s t : State} {x : Reg} {cond : Key → Bool} (h : s.keySkip x cond = .next t) :
    (∃ c, t.machine = s.machine.skipIf c) ∨ t.machine = s.machine := by
  rcases s.keySkip_cases x cond with ⟨k, -, hk⟩ | ⟨-, hk⟩
  · exact .inl ⟨cond k, State.complete_machine (hk.symm.trans h)⟩
  · cases hk.symm.trans h
    exact .inr rfl

/-- The wait leaves `MachineState`, notes the key, or commits it; it does not raise. -/
theorem exec_ldVxK_next {x : Reg} {s t : State} (h : exec (.ldVxK x) s = .next t) :
    ∃ m, t = { s with machine := m } ∧ (m = s.machine ∨ (∃ k, m = s.machine.setPending (some k)) ∨
      ∃ k, m = ((s.machine.setReg x (keyByte k)).setPending none).advance) := by
  cases hp : s.machine.pending with
  | none =>
    cases hk : s.machine.firstKeyDown with
    | none =>
      cases (exec_ldVxK_idle x hp ((s.machine.firstKeyDown_eq_none).mp hk)).symm.trans h
      exact ⟨_, rfl, .inl rfl⟩
    | some k =>
      cases (exec_ldVxK_press x hp hk).symm.trans h
      exact ⟨_, rfl, .inr (.inl ⟨k, rfl⟩)⟩
  | some k =>
    cases hk : s.machine.keyDown k with
    | true =>
      cases (exec_ldVxK_hold x hp hk).symm.trans h
      exact ⟨_, rfl, .inl rfl⟩
    | false =>
      cases (exec_ldVxK_release x hp hk).symm.trans h
      exact ⟨_, rfl, .inr (.inr ⟨k, rfl⟩)⟩

namespace MachineState.AccessedBy

theorem of_complete {i : Instr} {s t : State} {m : MachineState} (h : s.complete m = .next t)
    (hm : s.machine.AccessedBy i m) : s.machine.AccessedBy i t.machine :=
  State.complete_machine h ▸ hm

theorem of_checkedAccess {i : Instr} {s t : State} {k : Nat} {m : MachineState}
    (h : s.checkedAccess k (s.complete m) = .next t) (hm : s.machine.AccessedBy i m) :
    s.machine.AccessedBy i t.machine := by
  rcases State.checkedAccess_machine h with ht | ht <;> rw [ht]
  · exact hm
  · exact refl i s.machine

theorem of_keySkip {i : Instr} {s t : State} {x : Reg} {cond : Key → Bool} (h : s.keySkip x cond = .next t) :
    s.machine.AccessedBy i t.machine := by
  rcases State.keySkip_machine h with ⟨c, ht⟩ | ht <;> rw [ht]
  · exact (refl i s.machine).skipIf c
  · exact refl i s.machine

theorem of_call {nnn : Nnn} {s t : State} (h : exec (.call nnn) s = .next t) :
    s.machine.AccessedBy (.call nnn) t.machine := by
  by_cases hsp : s.machine.sp.val < 16
  · cases (exec_call_of_lt nnn s hsp).symm.trans h
    exact called s.machine nnn hsp
  · cases (exec_call_full nnn s (by omega)).symm.trans h
    exact refl _ s.machine

theorem of_ret {s t : State} (h : exec .ret s = .next t) : s.machine.AccessedBy .ret t.machine := by
  by_cases hsp : 0 < s.machine.sp.val
  · cases (exec_ret_of_pos s hsp).symm.trans h
    exact returned s.machine hsp
  · cases (exec_ret_empty s (by omega)).symm.trans h
    exact refl _ s.machine

theorem of_ldVxK {x : Reg} {s t : State} (h : exec (.ldVxK x) s = .next t) :
    s.machine.AccessedBy (.ldVxK x) t.machine := by
  have h0 := refl (.ldVxK x) s.machine
  obtain ⟨m, rfl, rfl | ⟨k, rfl⟩ | ⟨k, rfl⟩⟩ := exec_ldVxK_next h
  · exact h0
  · exact h0.setPending _ ⟨x, rfl⟩
  · exact ((h0.setReg _ rfl).setPending _ ⟨x, rfl⟩).advance

/-- `FX65` writes the registers up to `x`. -/
theorem setRegs_dataBytes (s : State) (x : Reg) :
    s.machine.AccessedBy (.loadRegs x) (s.machine.setRegs (s.dataBytes (x.val + 1))).advance := by
  refine ⟨.inl ?_, fun r => ?_, .inl ?_, .inl ?_, .inl ?_, .inl ?_, .inl ?_, .inl ?_, .inl ?_⟩
  case refine_2 =>
    rw [State.reg_setRegs_dataBytes]
    split
    · exact .inr ‹_›
    · exact .inl rfl
  all_goals simp

end MachineState.AccessedBy

/-- Every instruction writes only what the access matrix lets it write. -/
theorem exec_accesses {i : Instr} {s t : State} (h : exec i s = .next t) : s.machine.AccessedBy i t.machine := by
  have h0 := MachineState.AccessedBy.refl i s.machine
  cases i with
  | cls => exact .of_complete h (h0.setScreen _ (.inl rfl)).advance
  | ret => exact .of_ret h
  | jp nnn => exact .of_complete h (h0.setPc _)
  | call nnn => exact .of_call h
  | seImm x nn => exact .of_complete h (h0.skipIf _)
  | sneImm x nn => exact .of_complete h (h0.skipIf _)
  | seReg x y => exact .of_complete h (h0.skipIf _)
  | ldImm x nn => exact .of_complete h (h0.setReg _ rfl).advance
  | addImm x nn => exact .of_complete h (h0.setReg _ rfl).advance
  | ldReg x y => exact .of_complete h (h0.setReg _ rfl).advance
  | orReg x y => exact .of_complete h (h0.setReg _ rfl).advance
  | andReg x y => exact .of_complete h (h0.setReg _ rfl).advance
  | xorReg x y => exact .of_complete h (h0.setReg _ rfl).advance
  | addReg x y => exact .of_complete h ((h0.setReg _ (.inl rfl)).setFlag _ (.inr rfl)).advance
  | subReg x y => exact .of_complete h ((h0.setReg _ (.inl rfl)).setFlag _ (.inr rfl)).advance
  | shr x y => exact .of_complete h ((h0.setReg _ (.inl rfl)).setFlag _ (.inr rfl)).advance
  | subn x y => exact .of_complete h ((h0.setReg _ (.inl rfl)).setFlag _ (.inr rfl)).advance
  | shl x y => exact .of_complete h ((h0.setReg _ (.inl rfl)).setFlag _ (.inr rfl)).advance
  | sneReg x y => exact .of_complete h (h0.skipIf _)
  | ldI nnn => exact .of_complete h (h0.setI _ (.inl ⟨nnn, rfl⟩)).advance
  | jpV0 nnn => exact .of_complete h (h0.setPc _)
  | rnd x nn => exact .of_complete (s := s.countDraw) h (h0.setReg _ rfl).advance
  | drw x y n => exact .of_checkedAccess h ((h0.setScreen _ (.inr ⟨x, y, n, rfl⟩)).setFlag _ rfl).advance
  | skp x => exact .of_keySkip h
  | sknp x => exact .of_keySkip h
  | ldVxDt x => exact .of_complete h (h0.setReg _ rfl).advance
  | ldVxK x => exact .of_ldVxK h
  | ldDtVx x => exact .of_complete h (h0.setDt _ ⟨x, rfl⟩).advance
  | ldStVx x => exact .of_complete h (h0.setSt _ ⟨x, rfl⟩).advance
  | addI x => exact .of_complete h (h0.setI _ (.inr ⟨x, .inl rfl⟩)).advance
  | ldF x => exact .of_complete h (h0.setI _ (.inr ⟨x, .inr rfl⟩)).advance
  | ldB x => exact .of_checkedAccess h (h0.setMemory _ ⟨x, .inl rfl⟩).advance
  | storeRegs x => exact .of_checkedAccess h (h0.setMemory _ ⟨x, .inr rfl⟩).advance
  | loadRegs x => exact .of_checkedAccess h (.setRegs_dataBytes s x)

/-! ### The shapes of an answer -/

/-- What every instruction leaves alone outside `MachineState` and the latch. -/
structure State.SameControl (s t : State) : Prop where
  keys : t.machine.keys = s.machine.keys
  paused : t.paused = s.paused
  cancelled : t.cancelled = s.cancelled
  cycleInFrame : t.cycleInFrame = s.cycleInFrame
  progId : t.progId = s.progId
  screenOut : t.screenOut = s.screenOut
  soundOut : t.soundOut = s.soundOut
  stateOut : t.stateOut = s.stateOut
  config : t.config = s.config
  turns : t.turns = s.turns

/-- Every instruction answers a next state: with the latch as before, or a fault raised and nothing else changed. -/
theorem exec_next (i : Instr) (s : State) :
    ∃ t, exec i s = .next t ∧ s.SameControl t ∧ (t.fault = s.fault ∨ ∃ c w, t = s.raise c w) := by
  rcases exec_shape i s with ⟨m, h, hk⟩ | ⟨m, h, hk⟩ | ⟨c, w, h⟩
  · exact ⟨_, h, ⟨hk, rfl, rfl, rfl, rfl, rfl, rfl, rfl, rfl, rfl⟩, .inl rfl⟩
  · exact ⟨_, h, ⟨hk, rfl, rfl, rfl, rfl, rfl, rfl, rfl, rfl, rfl⟩, .inl rfl⟩
  · exact ⟨_, h, ⟨rfl, rfl, rfl, rfl, rfl, rfl, rfl, rfl, rfl, rfl⟩, .inr ⟨c, w, rfl⟩⟩

theorem exec_sameControl {i : Instr} {s t : State} (h : exec i s = .next t) : s.SameControl t := by
  obtain ⟨u, hu, hc, -⟩ := exec_next i s
  cases hu.symm.trans h
  exact hc

theorem exec_fault {i : Instr} {s t : State} (h : exec i s = .next t) :
    t.fault = s.fault ∨ ∃ c w, t = s.raise c w := by
  obtain ⟨u, hu, -, hf⟩ := exec_next i s
  cases hu.symm.trans h
  exact hf

/-! ### The statements -/

/-- Settles O17: an instruction that does not raise leaves the latch, which was clear. -/
theorem faultsArePrecise : Obligations.FaultsArePrecise := by
  intro i s t hs h ht
  rcases exec_fault h with hf | ⟨c, w, rfl⟩
  · exact absurd (hf.trans hs) ht
  · rfl

/-- Settles O18: the shapes of an answer leave run control and the outputs alone. -/
theorem instructionsLeaveRunControl : Obligations.InstructionsLeaveRunControl := by
  intro i s
  obtain ⟨t, h, ⟨hkeys, hp, hc, hcyc, hid, hscr, hsnd, hst, hcfg, hturns⟩, -⟩ := exec_next i s
  exact ⟨t, h, fun k => by simp only [MachineState.keyDown, hkeys], hp, hc, hcyc, hid, hscr, hsnd, hst, hcfg, hturns⟩

/-- Settles O19: each clause is one entry of the access matrix. -/
theorem accessMatrixOfWrites : Obligations.AccessMatrixOfWrites := by
  intro i s t h
  obtain ⟨hmem, -, hindex, hstack, hsp, hdt, hst, hscreen, hpending⟩ := exec_accesses h
  refine ⟨?_, hscreen.resolve_left, hstack.resolve_left, hsp.resolve_left, hindex.resolve_left, hdt.resolve_left,
    hst.resolve_left, hpending.resolve_left⟩
  rintro ⟨a, ha⟩
  refine hmem.resolve_left fun hm => ha ?_
  rw [State.readByte_eq, State.readByte_eq, hm, (exec_sameControl h).config]

/-- An operation with a flag leaves 0 or 1 in `VF`. -/
theorem State.aluFlag_flag {s t : State} {x : Reg} {r : Byte} {f : Bool} (h : s.aluFlag x r f = .next t) :
    t.machine.reg 15 = 0 ∨ t.machine.reg 15 = 1 := by
  rw [State.complete_machine h, MachineState.reg_advance, MachineState.reg_setFlag_flag]
  exact flagByte_cases f

theorem exec_drw_flag {x y : Reg} {n : Height} {s t : State} (h : exec (.drw x y n) s = .next t)
    (ht : t.fault = none) : t.machine.reg 15 = 0 ∨ t.machine.reg 15 = 1 := by
  by_cases hin : n.val = 0 ∨ s.machine.i.toNat + n.val - 1 ≤ 4095
  · cases (exec_drw_inside x y n s hin).symm.trans h
    rw [State.afterDraw_flag]
    exact flagByte_cases _
  · have hout : exec (.drw x y n) s = .next (s.raise .memoryOutOfBounds s.machine.i) :=
      s.checkedAccess_outside n.val _ (by omega) (by omega)
    cases hout.symm.trans h
    exact absurd ht nofun

/-- Settles O20: a register is an entry of the access matrix, and a flag writer that completes writes `VF` last. -/
theorem registersChangeOnlyAsNamed : Obligations.RegistersChangeOnlyAsNamed := by
  intro i s t h
  refine ⟨fun r => ((exec_accesses h).reg r).resolve_left, ?_⟩
  rintro (⟨x, y, hi⟩ | ⟨x, y, n, rfl⟩) - ht
  · rcases hi with rfl | rfl | rfl | rfl | rfl <;> exact State.aluFlag_flag h
  · exact exec_drw_flag h ht

end Sys2Proof.Machine

/-! # Memory in canonical form (spec/20_memory.md) -/

namespace Sys2Proof.Machine

/-- In the canonical form every address below the first cell's reads as at reset. -/
theorem Memory.read_below_head {c : Config} {lo k a : Nat} {v : Byte} {m : Memory}
    (h : Memory.wfFrom c lo ((k, v) :: m) = true) (ha : a < k) : Memory.read c ((k, v) :: m) a = resetByte c a := by
  obtain ⟨-, hk, hv, hm⟩ := (Memory.wfFrom_cons c lo k v m).mp h
  exact Memory.read_of_lt_wfFrom c _ k a ((Memory.wfFrom_cons c k k v m).mpr ⟨Nat.le_refl k, hk, hv, hm⟩) ha

/-- A cell is seen by a read, for it differs from the reset byte. -/
theorem Memory.read_head_ne {c : Config} {lo k : Nat} {v : Byte} {m : Memory}
    (h : Memory.wfFrom c lo ((k, v) :: m) = true) : Memory.read c ((k, v) :: m) k ≠ resetByte c k := by
  obtain ⟨-, -, hv, -⟩ := (Memory.wfFrom_cons c lo k v m).mp h
  rwa [Memory.read_cons, if_pos rfl]

theorem Memory.head_lt {c : Config} {lo k : Nat} {v : Byte} {m : Memory}
    (h : Memory.wfFrom c lo ((k, v) :: m) = true) : k < 4096 := by
  obtain ⟨-, hk, -, -⟩ := (Memory.wfFrom_cons c lo k v m).mp h
  exact hk

/-- If two memories in canonical form read alike, neither's first cell comes before the other's. -/
theorem Memory.head_le_of_read_eq {c : Config} {lo j k : Nat} {v w : Byte} {m n : Memory}
    (hm : Memory.wfFrom c lo ((j, v) :: m) = true) (hn : Memory.wfFrom c lo ((k, w) :: n) = true)
    (h : ∀ a, a < 4096 → Memory.read c ((j, v) :: m) a = Memory.read c ((k, w) :: n) a) : k ≤ j := by
  refine Nat.le_of_not_lt fun hjk => Memory.read_head_ne hm ?_
  rw [h j (Memory.head_lt hm), Memory.read_below_head hn hjk]

theorem Memory.eq_of_read_eq {c : Config} {lo : Nat} {m n : Memory} (hm : Memory.wfFrom c lo m = true)
    (hn : Memory.wfFrom c lo n = true) (h : ∀ a, a < 4096 → Memory.read c m a = Memory.read c n a) : m = n := by
  induction m generalizing lo n with
  | nil =>
    cases n with
    | nil => rfl
    | cons cell rest => exact absurd (h cell.1 (Memory.head_lt hn)).symm (Memory.read_head_ne hn)
  | cons cell rest ih =>
    obtain ⟨j, v⟩ := cell
    cases n with
    | nil => exact absurd (h j (Memory.head_lt hm)) (Memory.read_head_ne hm)
    | cons cell' rest' =>
      obtain ⟨k, w⟩ := cell'
      obtain rfl : j = k := Nat.le_antisymm
        (Memory.head_le_of_read_eq hn hm fun a ha => (h a ha).symm) (Memory.head_le_of_read_eq hm hn h)
      obtain ⟨-, hj, -, hrest⟩ := (Memory.wfFrom_cons c lo j v rest).mp hm
      obtain ⟨-, -, -, hrest'⟩ := (Memory.wfFrom_cons c lo j w rest').mp hn
      obtain rfl : v = w := by simpa using h j hj
      refine congrArg _ (ih hrest hrest' fun a ha => ?_)
      rcases Nat.lt_or_ge j a with hja | haj
      · simpa [Nat.ne_of_lt hja] using h a ha
      · rw [Memory.read_of_lt_wfFrom c rest (j + 1) a hrest (Nat.lt_succ_of_le haj),
          Memory.read_of_lt_wfFrom c rest' (j + 1) a hrest' (Nat.lt_succ_of_le haj)]

/-- Settles O16: two lists in rising order whose cells differ from the reset bytes are compared cell by cell. -/
theorem canonicalMemoriesAreEqual : Obligations.CanonicalMemoriesAreEqual :=
  fun _ _ _ hm hk h => Memory.eq_of_read_eq hm hk h

end Sys2Proof.Machine

/-! # What a step can do (spec/60_exceptions.md) -/

namespace Sys2Proof.Machine

/-! ### Inversion: from the state answered back to what was done -/

theorem counted_next {r : Result} {t : State} (h : counted r = .next t) : ∃ u, r = .next u ∧ t = u.countCycle := by
  cases r with
  | next u =>
    cases h
    exact ⟨u, rfl, rfl⟩
  | fault f => exact absurd h nofun
  | refused f => exact absurd h nofun

theorem State.cycle_next {s t : State} (h : s.cycle = .next t) :
    (s.fetch = none ∧ t = s.raise .fetchOutOfBounds s.machine.pc) ∨
    (∃ w i u, s.fetch = some w ∧ decode w = .known i ∧ exec i s = .next u ∧ t = u.countCycle) ∨
    (∃ w v, s.fetch = some w ∧ decode w = .unknown v ∧ t = s.raise .unknownOpcode v) := by
  rcases s.cycle_cases with ⟨hf, hc⟩ | ⟨w, i, hf, hd, hc⟩ | ⟨w, v, hf, hd, hc⟩ <;> rw [h] at hc
  · exact .inl ⟨hf, Host.Outcome.next.inj hc⟩
  · obtain ⟨u, hu, ht⟩ := counted_next hc.symm
    exact .inr (.inl ⟨w, i, u, hf, hd, hu, ht⟩)
  · exact .inr (.inr ⟨w, v, hf, hd, Host.Outcome.next.inj hc⟩)

theorem coreStep_next {s t : State} (h : coreStep s = .next t) :
    (s.Enabled ∧ s.cycleInFrame < s.config.ipf ∧ s.cycle = .next t) ∨
    (s.Enabled ∧ s.config.ipf ≤ s.cycleInFrame ∧ t = s.frameTick) ∨
    (¬ s.Enabled ∧ s.fault = none ∧ t = s) := by
  rcases coreStep_cases s with ⟨he, hd, hc⟩ | ⟨he, hd, hc⟩ | ⟨he, hf, hc⟩ | ⟨-, f, -, hc⟩ <;> rw [h] at hc
  · exact .inl ⟨he, hd, hc.symm⟩
  · exact .inr (.inl ⟨he, hd, Host.Outcome.next.inj hc⟩)
  · exact .inr (.inr ⟨he, hf, Host.Outcome.next.inj hc⟩)
  · exact absurd hc nofun

/-- What an event of the host makes of the state, when it answers one. -/
inductive HostShape (s : State) : HostEvent → State → Prop where
  | ignored (e : HostEvent) : HostShape s e s
  | keyDown (k : Key) (hf : s.fault = none) : HostShape s (.keyDown k) { s with machine := s.machine.setKey k true }
  | keyUp (k : Key) (hf : s.fault = none) : HostShape s (.keyUp k) { s with machine := s.machine.setKey k false }
  | paused (b : Bool) : HostShape s (.setPause b) (s.setPause b)
  | cancelled : HostShape s .cancel s.cancel
  | adopted (snap : Snapshot) (hwf : Memory.wf s.config snap.machine.memory = true) (hid : snap.progId = s.progId) :
    HostShape s (.snapshotLoad snap) { s.clearFault with machine := snap.machine }
  | loaded (bytes : List Byte) (id : ProgramId) : HostShape s (.programLoad bytes id) (s.programLoad bytes id)

theorem State.snapshotLoad_of_eq {s : State} {snap : Snapshot} (h : snap.progId = s.progId) :
    s.snapshotLoad snap = { s.clearFault with machine := snap.machine } :=
  if_pos (decide_eq_true h)

theorem State.snapshotLoad_of_ne {s : State} {snap : Snapshot} (h : snap.progId ≠ s.progId) :
    s.snapshotLoad snap = s :=
  if_neg (by rw [State.accepts, decide_eq_true_eq]; exact h)

theorem hostStep_snapshotLoad {s : State} {snap : Snapshot} (h : Memory.wf s.config snap.machine.memory = true) :
    hostStep (.snapshotLoad snap) s = .next (s.snapshotLoad snap) :=
  if_pos h

theorem hostStep_shape {e : HostEvent} {s t : State} (h : hostStep e s = .next t) : HostShape s e t := by
  cases e with
  | keyDown k =>
    cases h
    rw [State.writeKey]
    split
    · exact .keyDown k ‹_›
    · exact .ignored _
  | keyUp k =>
    cases h
    rw [State.writeKey]
    split
    · exact .keyUp k ‹_›
    · exact .ignored _
  | setPause b => cases h; exact .paused b
  | cancel => cases h; exact .cancelled
  | snapshotExport => cases h; exact .ignored _
  | snapshotLoad snap =>
    rw [hostStep] at h
    split at h
    · cases h
      by_cases hid : snap.progId = s.progId
      · rw [State.snapshotLoad_of_eq hid]
        exact .adopted snap ‹_› hid
      · rw [State.snapshotLoad_of_ne hid]
        exact .ignored _
    · exact absurd h nofun
  | programLoad bytes id =>
    rw [hostStep] at h
    split at h
    · cases h
      exact .loaded bytes id
    · exact absurd h nofun

/-- A step that answers a state: the core's or the host's, on the state but for the plan. -/
theorem step_next {s t : State} (h : step s = .next t) :
    ∃ rest, coreStep { s with turns := rest } = .next t ∨
      ∃ e, s.hostTurn e { s with turns := rest } ∧ HostShape { s with turns := rest } e t := by
  rcases step_cases s with ⟨s', hs, hc⟩ | ⟨e, s', hs, hc⟩ <;> rw [h] at hc
  · rw [State.coreTurn_eq hs] at hc
    exact ⟨s'.turns, .inl hc.symm⟩
  · have heq := State.hostTurn_eq hs
    rw [heq] at hs hc
    exact ⟨s'.turns, .inr ⟨e, hs, hostStep_shape hc.symm⟩⟩

/-! ### The count of a cycle -/

@[simp] theorem State.countCycle_machine (s : State) : s.countCycle.machine = s.machine := by
  rw [State.countCycle]; split <;> rfl
@[simp] theorem State.countCycle_fault (s : State) : s.countCycle.fault = s.fault := by
  rw [State.countCycle]; split <;> rfl
@[simp] theorem State.countCycle_paused (s : State) : s.countCycle.paused = s.paused := by
  rw [State.countCycle]; split <;> rfl
@[simp] theorem State.countCycle_cancelled (s : State) : s.countCycle.cancelled = s.cancelled := by
  rw [State.countCycle]; split <;> rfl
@[simp] theorem State.countCycle_screenOut (s : State) : s.countCycle.screenOut = s.screenOut := by
  rw [State.countCycle]; split <;> rfl
@[simp] theorem State.countCycle_soundOut (s : State) : s.countCycle.soundOut = s.soundOut := by
  rw [State.countCycle]; split <;> rfl
@[simp] theorem State.countCycle_stateOut (s : State) : s.countCycle.stateOut = s.stateOut := by
  rw [State.countCycle]; split <;> rfl
@[simp] theorem State.countCycle_config (s : State) : s.countCycle.config = s.config := by
  rw [State.countCycle]; split <;> rfl
@[simp] theorem State.countCycle_turns (s : State) : s.countCycle.turns = s.turns := by
  rw [State.countCycle]; split <;> rfl

theorem State.countCycle_cycleInFrame (s : State) :
    s.countCycle.cycleInFrame = if s.fault = none then s.cycleInFrame + 1 else s.cycleInFrame := by
  rw [State.countCycle]; split <;> rfl

/-! ### The invariant (R38) -/

/-- The host's plan plays no part in the invariant. -/
theorem State.Inv.with_turns {s : State} (h : s.Inv) (rest : List Turn) : State.Inv { s with turns := rest } :=
  ⟨h.config, h.memory, h.published, h.frame, h.screenLatch, h.soundLatch⟩

theorem wf_memory_of_store {s t : State} {k : Nat} {bytes : List Byte}
    (h : s.checkedAccess k (s.complete (s.machine.setMemory (s.storeBytes bytes)).advance) = .next t)
    (hm : Memory.wf s.config s.machine.memory = true) : Memory.wf s.config t.machine.memory = true := by
  rcases State.checkedAccess_machine h with ht | ht <;> rw [ht]
  · exact s.wf_storeBytes bytes hm
  · exact hm

/-- The two writers of memory store bytes, which keeps its canonical form; no other instruction touches it. -/
theorem exec_wf_memory {i : Instr} {s t : State} (h : exec i s = .next t)
    (hm : Memory.wf s.config s.machine.memory = true) : Memory.wf s.config t.machine.memory = true := by
  rcases (exec_accesses h).memory with hsame | ⟨x, rfl | rfl⟩
  · rwa [hsame]
  · exact wf_memory_of_store h hm
  · exact wf_memory_of_store h hm

theorem State.Inv.raise {s : State} (h : s.Inv) (c : FaultCause) (w : Word) : (s.raise c w).Inv :=
  ⟨h.config, h.memory, h.published, h.frame, h.screenLatch, h.soundLatch⟩

/-- An instruction keeps the invariant, and its count too if the frame has a cycle left. -/
theorem State.Inv.exec_countCycle {i : Instr} {s u : State} (h : s.Inv) (hd : s.cycleInFrame < s.config.ipf)
    (hx : exec i s = .next u) : u.countCycle.Inv := by
  have hc := exec_sameControl hx
  constructor
  · rw [State.countCycle_config, hc.config]
    exact h.config
  · rw [State.countCycle_config, State.countCycle_machine, hc.config]
    exact exec_wf_memory hx h.memory
  · rw [State.countCycle_config, State.countCycle_stateOut, hc.config, hc.stateOut]
    exact h.published
  · rw [State.countCycle_cycleInFrame, State.countCycle_config, hc.config, hc.cycleInFrame]
    split
    · exact hd
    · exact h.frame
  · rw [State.countCycle_screenOut, State.countCycle_stateOut, hc.screenOut, hc.stateOut]
    exact h.screenLatch
  · rw [State.countCycle_soundOut, State.countCycle_stateOut, hc.soundOut, hc.stateOut]
    exact h.soundLatch

theorem State.Inv.cycle {s t : State} (h : s.Inv) (hd : s.cycleInFrame < s.config.ipf) (hc : s.cycle = .next t) :
    t.Inv := by
  rcases State.cycle_next hc with ⟨-, rfl⟩ | ⟨w, i, u, -, -, hx, rfl⟩ | ⟨w, v, -, -, rfl⟩
  · exact h.raise _ _
  · exact h.exec_countCycle hd hx
  · exact h.raise _ _

theorem State.Inv.frameTick {s : State} (h : s.Inv) : s.frameTick.Inv :=
  ⟨h.config, h.memory, h.memory, Nat.zero_le _, rfl, rfl⟩

theorem programMemory_wf (c : Config) (bytes : List Byte) : Memory.wf c (programMemory c bytes) = true :=
  Memory.wf_writeList c bytes [] programBase rfl

theorem State.Inv.hostShape {s t : State} {e : HostEvent} (h : s.Inv) (hs : HostShape s e t) : t.Inv := by
  cases hs with
  | adopted snap hwf => exact ⟨h.config, hwf, h.published, h.frame, h.screenLatch, h.soundLatch⟩
  | loaded bytes id =>
    exact ⟨h.config, programMemory_wf _ bytes, programMemory_wf _ bytes, Nat.zero_le _, rfl, rfl⟩
  | _ => exact ⟨h.config, h.memory, h.published, h.frame, h.screenLatch, h.soundLatch⟩

/-- Settles O13: a cycle, the tick and every event of the host keep the invariant. -/
theorem stepKeepsInv : Obligations.StepKeepsInv := by
  intro s t hinv h
  obtain ⟨rest, hc | ⟨e, -, hs⟩⟩ := step_next h
  · rcases coreStep_next hc with ⟨-, hd, hcycle⟩ | ⟨-, -, rfl⟩ | ⟨-, -, rfl⟩
    · exact (hinv.with_turns rest).cycle hd hcycle
    · exact (hinv.with_turns rest).frameTick
    · exact hinv.with_turns rest
  · exact (hinv.with_turns rest).hostShape hs

/-- Settles O14: the reset state is closed, and a load takes from the state only what it carries along. -/
theorem resetIsEmptyLoadWithInv : Obligations.ResetIsEmptyLoadWithInv := by
  refine ⟨by constructor <;> decide, fun s hc ht hd => ?_⟩
  rw [State.programLoad, hc, ht, hd]
  rfl

/-! ### Why the latch is set (R200) -/

theorem State.instrAtPc_eq_some {s : State} {i : Instr} :
    s.instrAtPc = some i ↔ ∃ w, s.fetch = some w ∧ decode w = .known i := by
  rw [State.instrAtPc]
  cases s.fetch with
  | none => simp
  | some w => cases hd : decode w <;> simp [hd]

theorem State.fetch_eq_none {s : State} (h : s.fetch = none) : s.machine.pc.toNat + 1 > 4095 := by
  refine Nat.lt_of_not_le fun hle => ?_
  rw [s.fetch_of_le hle] at h
  exact absurd h nofun

/-- A checked access sets the latch only where the range leaves memory. -/
theorem State.checkedAccess_fault {s t : State} {k : Nat} {m : MachineState} {f : FaultRecord} (hs : s.fault = none)
    (h : s.checkedAccess k (s.complete m) = .next t) (hf : t.fault = some f) :
    f = ⟨.memoryOutOfBounds, s.machine.i⟩ ∧ 0 < k ∧ s.machine.i.toNat + k - 1 > 4095 := by
  by_cases hin : k = 0 ∨ s.machine.i.toNat + k - 1 ≤ 4095
  · rw [s.checkedAccess_inside k _ hin] at h
    cases h
    exact absurd (hs.symm.trans hf) nofun
  · rw [s.checkedAccess_outside k _ (by omega) (by omega)] at h
    cases h
    cases hf
    exact ⟨rfl, by omega, by omega⟩

/-- A key skip sets the latch only where the register names no key. -/
theorem State.keySkip_fault {s t : State} {x : Reg} {cond : Key → Bool} {f : FaultRecord} (hs : s.fault = none)
    (h : s.keySkip x cond = .next t) (hf : t.fault = some f) :
    f = ⟨.keyIndexOutOfRange, zextByte (s.machine.reg x)⟩ ∧ (s.machine.reg x).toNat > 15 := by
  rcases s.keySkip_cases x cond with ⟨k, -, hk⟩ | ⟨hx, hk⟩ <;> cases hk.symm.trans h
  · exact absurd (hs.symm.trans hf) nofun
  · cases hf
    exact ⟨rfl, hx⟩

/-- An instruction at `pc` that sets the latch leaves a fault that its state explains. -/
theorem exec_explained {i : Instr} {s t : State} {f : FaultRecord} (hi : s.instrAtPc = some i) (hs : s.fault = none)
    (h : exec i s = .next t) (hf : t.fault = some f) : s.explains f := by
  cases i with
  | call nnn =>
    by_cases hsp : s.machine.sp.val < 16
    · cases (exec_call_of_lt nnn s hsp).symm.trans h
      exact absurd (hs.symm.trans hf) nofun
    · have hfull : s.machine.sp.val = 16 := by omega
      cases (exec_call_full nnn s hfull).symm.trans h
      cases hf
      exact ⟨⟨nnn, hi⟩, hfull, rfl⟩
  | ret =>
    by_cases hsp : 0 < s.machine.sp.val
    · cases (exec_ret_of_pos s hsp).symm.trans h
      exact absurd (hs.symm.trans hf) nofun
    · have hempty : s.machine.sp.val = 0 := by omega
      cases (exec_ret_empty s hempty).symm.trans h
      cases hf
      exact ⟨hi, hempty, rfl⟩
  | skp x =>
    obtain ⟨rfl, hx⟩ := State.keySkip_fault hs h hf
    exact ⟨x, .inl hi, hx, rfl⟩
  | sknp x =>
    obtain ⟨rfl, hx⟩ := State.keySkip_fault hs h hf
    exact ⟨x, .inr hi, hx, rfl⟩
  | ldB x =>
    obtain ⟨rfl, -, hout⟩ := State.checkedAccess_fault hs h hf
    exact ⟨rfl, .inl ⟨x, hi, hout⟩⟩
  | storeRegs x =>
    obtain ⟨rfl, -, hout⟩ := State.checkedAccess_fault hs h hf
    exact ⟨rfl, .inr (.inl ⟨x, hi, hout⟩)⟩
  | loadRegs x =>
    obtain ⟨rfl, -, hout⟩ := State.checkedAccess_fault hs h hf
    exact ⟨rfl, .inr (.inr (.inl ⟨x, hi, hout⟩))⟩
  | drw x y n =>
    obtain ⟨rfl, hn, hout⟩ := State.checkedAccess_fault hs h hf
    exact ⟨rfl, .inr (.inr (.inr ⟨x, y, n, hi, hn, hout⟩))⟩
  | ldVxK x =>
    obtain ⟨m, rfl, -⟩ := exec_ldVxK_next h
    exact absurd (hs.symm.trans hf) nofun
  | _ =>
    cases h
    exact absurd (hs.symm.trans hf) nofun

theorem State.FaultExplained.of_fault_none {s : State} (h : s.fault = none) : s.FaultExplained :=
  fun _ hf => absurd (h.symm.trans hf) nofun

/-- What explains a latch lies in `MachineState` and the configuration. -/
theorem State.FaultExplained.congr {s t : State} (h : s.FaultExplained) (hm : t.machine = s.machine)
    (hc : t.config = s.config) (hf : t.fault = s.fault) : t.FaultExplained :=
  fun f ht => State.explains_congr hm hc (h f (hf ▸ ht))

theorem State.FaultExplained.of_raise {s : State} {c : FaultCause} {w : Word} (h : s.explains ⟨c, w⟩) :
    (s.raise c w).FaultExplained := by
  intro f hf
  cases hf
  exact s.explains_raise c w h

/-- An instruction at `pc`, run without a fault before it, leaves the latch clear or explained. -/
theorem exec_faultExplained {i : Instr} {s t : State} (hi : s.instrAtPc = some i) (hs : s.fault = none)
    (h : exec i s = .next t) : t.FaultExplained := by
  rcases exec_fault h with hf | ⟨c, w, rfl⟩
  · exact .of_fault_none (hf.trans hs)
  · exact .of_raise (exec_explained hi hs h rfl)

theorem State.cycle_faultExplained {s t : State} (hs : s.fault = none) (h : s.cycle = .next t) : t.FaultExplained := by
  rcases State.cycle_next h with ⟨hf, rfl⟩ | ⟨w, i, u, hf, hd, hx, rfl⟩ | ⟨w, v, hf, hd, rfl⟩
  · exact .of_raise ⟨State.fetch_eq_none hf, rfl⟩
  · exact (exec_faultExplained (State.instrAtPc_eq_some.mpr ⟨w, hf, hd⟩) hs hx).congr u.countCycle_machine
      u.countCycle_config u.countCycle_fault
  · obtain rfl : v = w := (encodeOfDecode w).right v hd
    exact .of_raise ⟨hf, hd⟩

theorem HostShape.faultExplained {s t : State} {e : HostEvent} (h : s.FaultExplained) (hs : HostShape s e t) :
    t.FaultExplained := by
  cases hs with
  | ignored => exact h
  | keyDown k hf => exact .of_fault_none hf
  | keyUp k hf => exact .of_fault_none hf
  | paused b => exact h.congr rfl rfl rfl
  | cancelled => exact h.congr rfl rfl rfl
  | adopted snap => exact .of_fault_none rfl
  | loaded bytes id => exact .of_fault_none rfl

/-- Settles O15: a cycle raises only what its own state explains, and no other step sets the latch or writes what
explains it without clearing it. -/
theorem stepKeepsFaultExplained : Obligations.StepKeepsFaultExplained := by
  intro s t hs h
  obtain ⟨rest, hc | ⟨e, -, hshape⟩⟩ := step_next h
  · rcases coreStep_next hc with ⟨he, -, hcycle⟩ | ⟨he, -, rfl⟩ | ⟨-, hf, rfl⟩
    · exact State.cycle_faultExplained he.left hcycle
    · exact .of_fault_none he.left
    · exact .of_fault_none hf
  · have hplan : State.FaultExplained { s with turns := rest } := hs.congr rfl rfl rfl
    exact hshape.faultExplained hplan

/-! ### What no step changes, and what only a load changes -/

/-- What the core never writes: the configuration and the host's part of run control. -/
structure State.SameHostControl (s t : State) : Prop where
  turns : t.turns = s.turns
  paused : t.paused = s.paused
  cancelled : t.cancelled = s.cancelled
  config : t.config = s.config

theorem State.cycle_sameHostControl {s t : State} (h : s.cycle = .next t) : s.SameHostControl t := by
  rcases State.cycle_next h with ⟨-, rfl⟩ | ⟨w, i, u, -, -, hx, rfl⟩ | ⟨w, v, -, -, rfl⟩
  · exact ⟨rfl, rfl, rfl, rfl⟩
  · have hc := exec_sameControl hx
    exact ⟨u.countCycle_turns.trans hc.turns, u.countCycle_paused.trans hc.paused,
      u.countCycle_cancelled.trans hc.cancelled, u.countCycle_config.trans hc.config⟩
  · exact ⟨rfl, rfl, rfl, rfl⟩

theorem coreStep_sameHostControl {s t : State} (h : coreStep s = .next t) : s.SameHostControl t := by
  rcases coreStep_next h with ⟨-, -, hc⟩ | ⟨-, -, rfl⟩ | ⟨-, -, rfl⟩
  · exact State.cycle_sameHostControl hc
  · exact ⟨rfl, rfl, rfl, rfl⟩
  · exact ⟨rfl, rfl, rfl, rfl⟩

theorem HostShape.config {s t : State} {e : HostEvent} (hs : HostShape s e t) : t.config = s.config := by
  cases hs <;> rfl

/-- Settles O21: neither a cycle nor the tick nor an event of the host writes the configuration. -/
theorem configIsConstant : Obligations.ConfigIsConstant := by
  intro s t h
  obtain ⟨rest, hc | ⟨e, -, hs⟩⟩ := step_next h
  · exact (coreStep_sameHostControl hc).config
  · exact hs.config

/-- A halted core takes no step of its own. -/
theorem coreStep_ne_next_of_fault {s t : State} {f : FaultRecord} (hf : s.fault = some f) : coreStep s ≠ .next t := by
  intro h
  rcases coreStep_next h with ⟨he, -, -⟩ | ⟨he, -, -⟩ | ⟨-, hnone, -⟩
  · exact absurd (he.left.symm.trans hf) nofun
  · exact absurd (he.left.symm.trans hf) nofun
  · exact absurd (hnone.symm.trans hf) nofun

/-- Settles O22: a halted core leaves only the host's events, of which the two loads clear the latch and the others
leave the latch, `MachineState`, the frame and the outputs. -/
theorem onlyLoadsClearTheLatch : Obligations.OnlyLoadsClearTheLatch := by
  intro s t f hf h
  obtain ⟨rest, hc | ⟨e, hturn, hs⟩⟩ := step_next h
  · exact absurd hc (coreStep_ne_next_of_fault hf)
  · cases hs with
    | keyDown k hnone => exact absurd (hf.symm.trans hnone) nofun
    | keyUp k hnone => exact absurd (hf.symm.trans hnone) nofun
    | adopted snap hwf hid => exact .inr ⟨rfl, _, .inl ⟨snap, hturn, hid⟩⟩
    | loaded bytes id => exact .inr ⟨rfl, _, .inr ⟨bytes, id, hturn⟩⟩
    | _ => exact .inl ⟨hf, rfl, rfl, rfl, rfl, rfl⟩

/-- Settles O23: a key event writes a key, the others write run control, and the tick writes the timers. -/
theorem outsideEventsLeaveControlFlow : Obligations.OutsideEventsLeaveControlFlow := by
  refine ⟨fun e s t hsnap hload h => ?_, fun s => ⟨rfl, rfl, rfl, rfl, rfl, rfl⟩⟩
  cases hostStep_shape h with
  | adopted snap => exact absurd rfl (hsnap snap)
  | loaded bytes id => exact absurd rfl (hload bytes id)
  | _ => exact ⟨rfl, rfl, rfl, rfl, rfl, rfl⟩

end Sys2Proof.Machine

/-! # The frame: cycles and ticks (spec/60_exceptions.md, spec/70_reset_and_hazards.md) -/

namespace Sys2Proof.Machine

/-! ### The tick (R222, R223) -/

theorem countDown_toNat (t : Byte) : (countDown t).toNat = t.toNat - 1 := by
  rw [countDown]
  split
  · subst t
    rfl
  · rename_i h
    have hpos : t.toNat ≠ 0 := fun e => h (BitVec.eq_of_toNat_eq e)
    have hlt := t.isLt
    rw [BitVec.toNat_sub, show (1 : Byte).toNat = 1 from rfl]
    omega

theorem step_of_frameDone {s s' : State} (h : s.coreTurn s') (he : s'.Enabled)
    (hd : s'.config.ipf ≤ s'.cycleInFrame) : step s = .next s'.frameTick := by
  rw [step_of_coreTurn h, coreStep, if_pos (s'.enabled_iff.mpr he), State.cycleDue,
    if_neg (by rw [decide_eq_true_eq]; omega)]

/-- Settles O7: the step is the tick, which decrements the timers and then latches. -/
theorem tickCountsDownAndPublishes : Obligations.TickCountsDownAndPublishes := by
  intro s s' hturn he hd
  refine ⟨_, step_of_frameDone hturn he hd, countDown_toNat _, countDown_toNat _, rfl, rfl, rfl, rfl, fun p hp => ?_⟩
  cases p with
  | dt => exact absurd (.inl rfl) hp
  | st => exact absurd (.inr (.inl rfl)) hp
  | outputs => exact absurd (.inr (.inr (.inl rfl))) hp
  | cycleInFrame => exact absurd (.inr (.inr (.inr rfl))) hp
  | _ => rfl

/-- Settles O11: each tick takes one off, and truncated subtraction stops at 0 as the tick does. -/
theorem timersCountTicks : Obligations.TimersCountTicks := by
  intro n s
  induction n with
  | zero => exact ⟨rfl, rfl⟩
  | succ n ih =>
    obtain ⟨hdt, hst⟩ := ih
    rw [Function.iterate_succ_apply']
    exact ⟨(countDown_toNat _).trans (by rw [hdt]; rfl), (countDown_toNat _).trans (by rw [hst]; rfl)⟩

/-! ### The cycle's count -/

/-- A cycle answers a state with the latch set, or with one more cycle counted. -/
theorem State.cycle_progress (s : State) :
    ∃ t, s.cycle = .next t ∧ (t.fault ≠ none ∨ t.cycleInFrame = s.cycleInFrame + 1) := by
  rcases s.cycle_cases with ⟨-, hc⟩ | ⟨w, i, -, -, hc⟩ | ⟨w, v, -, -, hc⟩
  · exact ⟨_, hc, .inl nofun⟩
  · obtain ⟨u, hu, hcontrol, -⟩ := exec_next i s
    refine ⟨u.countCycle, by rw [hc, hu, counted], ?_⟩
    rw [State.countCycle_fault, State.countCycle_cycleInFrame, hcontrol.cycleInFrame]
    by_cases hf : u.fault = none
    · exact .inr (if_pos hf)
    · exact .inl hf
  · exact ⟨_, hc, .inl nofun⟩

/-- Settles O9: a cycle sets the latch or counts, and the tick moves a full frame back to 0. -/
theorem enabledCoreProgresses : Obligations.EnabledCoreProgresses := by
  intro s s' hturn he hipf
  by_cases hd : s'.cycleInFrame < s'.config.ipf
  · obtain ⟨t, hc, hp⟩ := s'.cycle_progress
    exact ⟨t, (step_of_cycleDue hturn he hd).trans hc, hp.imp_right fun h => by omega⟩
  · have hdone := Nat.le_of_not_lt hd
    refine ⟨_, step_of_frameDone hturn he hdone, .inr ?_⟩
    rw [State.frameTick_cycleInFrame]
    omega

/-- Settles O8: the two cases of a core that is not enabled. -/
theorem disabledCoreStandsStill : Obligations.DisabledCoreStandsStill := by
  intro s s' hturn he
  rw [step_of_coreTurn hturn]
  rcases coreStep_cases s' with ⟨hen, -⟩ | ⟨hen, -⟩ | ⟨-, hf, hc⟩ | ⟨-, g, hg, hc⟩
  · exact absurd hen he
  · exact absurd hen he
  · exact ⟨fun _ => hc, fun f h => absurd (hf.symm.trans h) nofun⟩
  · refine ⟨fun h => absurd (hg.symm.trans h) nofun, fun f h => ?_⟩
    cases hg.symm.trans h
    exact hc

theorem State.spinning_jp {s : State} (h : s.spinning = true) :
    ∃ nnn, s.instrAtPc = some (.jp nnn) ∧ zextNnn nnn = s.machine.pc := by
  rw [State.spinning] at h
  split at h
  · exact ⟨_, ‹_›, of_decide_eq_true h⟩
  · exact absurd h nofun

/-- Settles O12: the jump writes the address that `pc` holds already. -/
theorem spinChangesOnlyTheFrame : Obligations.SpinChangesOnlyTheFrame := by
  intro s s' hturn he hd hspin
  obtain ⟨nnn, hinstr, hpc⟩ := State.spinning_jp hspin
  obtain ⟨w, hw, hi⟩ := State.instrAtPc_eq_some.mp hinstr
  have hjump : exec (.jp nnn) s' = .next s' := by
    rw [exec, execJp, hpc]
    rfl
  exact step_of_exec hturn he hd hw hi hjump he.left

/-! ### Runs of the core alone (R221) -/

/-- An enabled core's step without a fault moves the frame on by one, from `IPF` back to 0. -/
theorem coreStep_cycleInFrame {s t : State} (he : s.Enabled) (h : coreStep s = .next t) (ht : t.fault = none) :
    t.cycleInFrame = if s.cycleInFrame < s.config.ipf then s.cycleInFrame + 1 else 0 := by
  rcases coreStep_next h with ⟨-, hd, hc⟩ | ⟨-, hd, rfl⟩ | ⟨hne, -, -⟩
  · obtain ⟨u, hu, hp⟩ := s.cycle_progress
    cases hu.symm.trans hc
    rw [if_pos hd]
    exact hp.resolve_left fun hf => hf ht
  · rw [if_neg (Nat.not_lt.mpr hd)]
    rfl
  · exact absurd he hne

theorem core_run_succ_next {s t : State} {n : Nat} (h : Host.Core.run Sys2Proof.core (n + 1) s = .next t) :
    ∃ u, step s = .next u ∧ Host.Core.run Sys2Proof.core n u = .next t := by
  have hcore : Sys2Proof.core.step s = step s := rfl
  cases hs : step s with
  | next u => exact ⟨u, rfl, (core_run_succ hs n).symm.trans h⟩
  | fault f => simp [Host.Core.run, hcore, hs] at h
  | refused f => simp [Host.Core.run, hcore, hs] at h

/-- With no turn of the host ahead, a run that ends without a fault starts without one. -/
theorem fault_none_of_core_run {s t : State} {n : Nat} (hturns : s.turns = [])
    (h : Host.Core.run Sys2Proof.core n s = .next t) (ht : t.fault = none) : s.fault = none := by
  cases n with
  | zero =>
    cases h
    exact ht
  | succ n =>
    obtain ⟨u, hu, -⟩ := core_run_succ_next h
    rw [step_of_coreTurn (.inl ⟨hturns, rfl⟩)] at hu
    cases hf : s.fault with
    | none => rfl
    | some f => exact absurd hu (coreStep_ne_next_of_fault hf)

/-- Counting on from `c` with a step to 0 after `k` is counting modulo `k + 1`. -/
theorem wrap_add_mod {c k n : Nat} (hc : c ≤ k) :
    ((if c < k then c + 1 else 0) + n) % (k + 1) = (c + (n + 1)) % (k + 1) := by
  split
  · rw [Nat.add_assoc, Nat.add_comm 1 n]
  · obtain rfl : c = k := by omega
    rw [show c + (n + 1) = n + (c + 1) by omega, Nat.add_mod_right, Nat.zero_add]

/-- Settles O10: by induction on the run; every state in it is without a fault, for no later one could be. -/
theorem framesAreRegular : Obligations.FramesAreRegular := by
  intro n
  induction n with
  | zero =>
    intro s t _ _ _ hframe h _
    cases h
    exact (Nat.mod_eq_of_lt (Nat.lt_succ_of_le hframe)).symm
  | succ n ih =>
    intro s t hturns hpaused hcancelled hframe h ht
    have hfault := fault_none_of_core_run hturns h ht
    obtain ⟨u, hu, hrun⟩ := core_run_succ_next h
    rw [step_of_coreTurn (.inl ⟨hturns, rfl⟩)] at hu
    obtain ⟨hturns', hpaused', hcancelled', hconfig'⟩ := coreStep_sameHostControl hu
    have hcycle := coreStep_cycleInFrame ⟨hfault, hpaused, fun hc => absurd (hcancelled.symm.trans hc.left) nofun⟩ hu
      (fault_none_of_core_run (hturns'.trans hturns) hrun ht)
    have hframe' : u.cycleInFrame ≤ u.config.ipf := by
      rw [hcycle, hconfig']
      split <;> omega
    rw [ih u t (hturns'.trans hturns) (hpaused'.trans hpaused) (hcancelled'.trans hcancelled) hframe' hrun ht, hcycle,
      hconfig', wrap_add_mod hframe]

end Sys2Proof.Machine

/-! # The host's events (spec/60_exceptions.md, spec/70_reset_and_hazards.md) -/

namespace Sys2Proof.Machine

/-! ### Keys and run control (R226, R228, R229) -/

theorem State.writeKey_of_none {s : State} (h : s.fault = none) (k : Key) (b : Bool) :
    s.writeKey k b = { s with machine := s.machine.setKey k b } :=
  if_pos h

theorem State.writeKey_of_fault {s : State} (h : s.fault ≠ none) (k : Key) (b : Bool) : s.writeKey k b = s :=
  if_neg h

theorem onlyChanges_setKey (s : State) (k : Key) (b : Bool) :
    OnlyChanges s { s with machine := s.machine.setKey k b } fun p => p = .key k := by
  refine onlyChanges_of_machine s _ _ fun p _ hp => ?_
  cases p with
  | key j => exact (s.machine.keyDown_setKey k j b).trans (if_neg fun e : k = j => hp (e ▸ rfl))
  | outputs => exact ⟨rfl, rfl, rfl⟩
  | _ => rfl

theorem MachineState.keyDown_setKey_self (m : MachineState) (k : Key) (b : Bool) : (m.setKey k b).keyDown k = b :=
  (m.keyDown_setKey k k b).trans (if_pos rfl)

/-- Settles O54: without a fault the event writes its key, with one it writes nothing. -/
theorem keyEventsWriteOneKey : Obligations.KeyEventsWriteOneKey := by
  refine fun s s' k => ⟨fun hturn hf => ?_, fun hturn hf => ?_, fun hturn hf => ?_⟩
  · refine ⟨_, ?_, s'.machine.keyDown_setKey_self k true, onlyChanges_setKey s' k true⟩
    rw [step_of_hostTurn hturn, hostStep, State.writeKey_of_none hf]
  · refine ⟨_, ?_, s'.machine.keyDown_setKey_self k false, onlyChanges_setKey s' k false⟩
    rw [step_of_hostTurn hturn, hostStep, State.writeKey_of_none hf]
  · rcases hturn with hturn | hturn <;> rw [step_of_hostTurn hturn, hostStep, State.writeKey_of_fault hf]

/-- Settles O55: each event writes its flag, whatever the state. -/
theorem pauseAndCancelSetTheirFlag : Obligations.PauseAndCancelSetTheirFlag :=
  fun _ _ => ⟨fun _ hturn => step_of_hostTurn hturn, fun hturn => step_of_hostTurn hturn⟩

/-! ### Snapshots (R230, R231) -/

/-- The identity is not part of what a load replaces, so a second load does as the first. -/
theorem State.snapshotLoad_idem (s : State) (snap : Snapshot) :
    (s.snapshotLoad snap).snapshotLoad snap = s.snapshotLoad snap := by
  by_cases h : snap.progId = s.progId
  · have hagain : snap.progId = (s.snapshotLoad snap).progId := by rw [State.snapshotLoad_of_eq h]; exact h
    rw [State.snapshotLoad_of_eq hagain, State.snapshotLoad_of_eq h]
    rfl
  · rw [State.snapshotLoad_of_ne h, State.snapshotLoad_of_ne h]

/-- Settles O57: a snapshot in form is loaded, and the load compares the identities. -/
theorem snapshotLoadNeedsIdentity : Obligations.SnapshotLoadNeedsIdentity := by
  rintro s s' snap hturn hwf
  have hs' := State.hostTurn_eq hturn
  have hconfig : s'.config = s.config := by rw [hs']
  have hid : s'.progId = s.progId := by rw [hs']
  rw [step_of_hostTurn hturn, hostStep_snapshotLoad (hconfig ▸ hwf), ← hid]
  refine ⟨fun h => ⟨?_, ?_⟩, fun h => ⟨?_, ?_⟩, s'.snapshotLoad_idem snap⟩
  · rw [State.snapshotLoad_of_eq h]
    rfl
  · exact congrArg HostReply.adopted (decide_eq_true h)
  · rw [State.snapshotLoad_of_ne h]
  · exact congrArg HostReply.adopted (decide_eq_false h)

/-- Settles O58: the load keeps configuration and identity, so the copy, which is in form, is adopted. -/
theorem snapshotRoundTrips : Obligations.SnapshotRoundTrips := by
  intro s bytes hinv
  have hload : hostStep (.snapshotLoad s.snapshotExport) (s.programLoad bytes s.progId) = _ :=
    hostStep_snapshotLoad hinv.memory
  rw [State.snapshotLoad_of_eq rfl] at hload
  exact ⟨_, hload, rfl, rfl, rfl⟩

/-! ### Program load (R250, R251) -/

theorem resetByte_font (c : Config) {k : Nat} (h : k < 80) : resetByte c (c.fontBase + k) = c.fontData[k] := by
  rw [resetByte, if_pos (Nat.le_add_right _ _), Nat.add_sub_cancel_left, Vector.getElem?_eq_getElem h, Option.getD_some]

theorem resetByte_outside (c : Config) {a : Nat} (h : a < c.fontBase ∨ c.fontBase + 80 ≤ a) : resetByte c a = 0 := by
  rw [resetByte]
  split
  · rw [Vector.getElem?_eq_none (by omega), Option.getD_none]
  · rfl

theorem read_programMemory_inside (c : Config) {bytes : List Byte} {k : Nat} {b : Byte} (hb : bytes[k]? = some b)
    (hlen : bytes.length ≤ 3584) : Memory.read c (programMemory c bytes) (0x200 + k) = b := by
  obtain ⟨hk, rfl⟩ := List.getElem?_eq_some_iff.mp hb
  exact Memory.read_writeList_inside c bytes [] 0x200 k hk (by rw [memorySize]; omega)

theorem read_programMemory_outside (c : Config) (bytes : List Byte) {a : Nat}
    (h : a < 0x200 ∨ 0x200 + bytes.length ≤ a) : Memory.read c (programMemory c bytes) a = resetByte c a :=
  Memory.read_writeList_outside c bytes [] 0x200 a h

theorem State.loadable_iff (s : State) (bytes : List Byte) :
    s.loadable bytes = true ↔ bytes.length ≤ 3584 ∧ s.config.fontBase + 80 ≤ 0x200 := by
  rw [State.loadable, programFits, Bool.and_eq_true, decide_eq_true_eq, decide_eq_true_eq, maxProgramBytes]

/-- Settles O59: memory is the program over the reset bytes, and every other field has its reset value. -/
theorem programLoadResets : Obligations.ProgramLoadResets := by
  intro s s' bytes id hturn hlen hfont
  have hconfig : s'.config = s.config := by rw [State.hostTurn_eq hturn]
  rw [← hconfig] at hfont ⊢
  have hstep : step s = .next (s'.programLoad bytes id) :=
    (step_of_hostTurn hturn).trans (if_pos ((s'.loadable_iff bytes).mpr ⟨hlen, hfont⟩))
  refine ⟨_, hstep, fun k b hb => read_programMemory_inside s'.config hb hlen, fun k hk => ?_, fun a _ hf hp => ?_,
    fun r => ?_, rfl, rfl, fun k => ?_, rfl, rfl, rfl, Screen.pixel_blank, fun k => ?_, rfl, rfl, rfl, rfl, rfl, rfl,
    Screen.pixel_blank, rfl, rfl, rfl⟩
  · exact (read_programMemory_outside s'.config bytes (.inl (by omega))).trans (resetByte_font s'.config hk)
  · exact (read_programMemory_outside s'.config bytes hp).trans (resetByte_outside s'.config hf)
  · exact Vector.getElem_replicate r.isLt
  · exact Vector.getElem_replicate k.isLt
  · exact Vector.getElem_replicate k.isLt

/-- Settles O60: a load that fails one of R251's two conditions is not loadable. -/
theorem unfitProgramIsRefused : Obligations.UnfitProgramIsRefused := by
  intro s s' bytes id hturn h
  have hconfig : s'.config = s.config := by rw [State.hostTurn_eq hturn]
  rw [step_of_hostTurn hturn]
  refine if_neg fun hl => ?_
  obtain ⟨hlen, hfont⟩ := (s'.loadable_iff bytes).mp hl
  rw [hconfig] at hfont
  omega

end Sys2Proof.Machine
